-- ==== Sys2Proof/Word.lean ====
section
/-! DEFINITION. The value types of the core: bytes and 32-bit words (R11, R16). -/

namespace Sys2Proof

/-- An unsigned byte: a GF(2^8) element, a key byte or a message byte (R11, R16). -/
abbrev Byte := BitVec 8

/-- A 32-bit value: a bus word or a register word (R10, R22). -/
abbrev Word := BitVec 32

end Sys2Proof
end

