-- ==== Sys2Proof/Config.lean ====
section
/-! DEFINITION. What a build of the core fixes (R10) and the free values the spec leaves open (R61, R291). -/

namespace Sys2Proof.Config

/-- The least capacity a build may have, in 16-byte blocks (R10). -/
def minBlocks : Nat := 626

/-- The greatest capacity a build may have, in 16-byte blocks (R10). -/
def maxBlocksLimit : Nat := 4096

/-- The reference value of MAX_BLOCKS (R10), which `State.reset` takes.
DESIGN CHOICE (log entry 1), unsafe: a claim about the reset state alone is a claim about this build.
Claims over every state are claims about every build, since `State.maxBlocks` holds the parameter. -/
def referenceBlocks : Nat := 1024

/-- The two message buffers (R32, R33). -/
inductive Buffer where
  | input
  | output
deriving DecidableEq, Repr

/-- FREE VALUE (log entry 2), safe: the unknown byte that offset `off` of a buffer holds from reset event number
`resets` until something writes it (R291).  It has no body, so no proof can see its value. -/
opaque unwritten (b : Buffer) (resets off : Nat) : Byte

/-- FREE VALUE (log entry 4), safe: what read number `draw` of those made while BUSY = 1 returns, for an address
other than STATUS, CAPS and CMD (R61).  It has no body, so no proof can see its value. -/
opaque busyRead (draw : Nat) : Word

end Sys2Proof.Config
end

