-- ==== Sys2Proof/Syntax.lean ====
section
/-! DEFINITION. The command set NHTCM-AES version 1: one constructor for each row of the opcode map (R82). -/

namespace Sys2Proof

/-- A command (R82).  Its operands are implicit registers and arrays (R81), but for the round index of ADD_ROUND_KEY. -/
inductive Instr where
  /-- NOP (R242) -/
  | nop
  /-- KEY_EXPAND (R136) -/
  | keyExpand
  /-- BLOCK_ENC (R180) -/
  | blockEnc
  /-- BLOCK_DEC (R181) -/
  | blockDec
  /-- CBC_ENC (R222) -/
  | cbcEnc
  /-- CBC_DEC (R223) -/
  | cbcDec
  /-- PAD (R203) -/
  | pad
  /-- UNPAD (R204) -/
  | unpad
  /-- GF_MUL (R108) -/
  | gfMul
  /-- KEY_CLEAR (R137) -/
  | keyClear
  /-- SUB_BYTES (R182) -/
  | subBytes
  /-- INV_SUB_BYTES (R183) -/
  | invSubBytes
  /-- SHIFT_ROWS (R184) -/
  | shiftRows
  /-- INV_SHIFT_ROWS (R185) -/
  | invShiftRows
  /-- MIX_COLUMNS (R186) -/
  | mixColumns
  /-- INV_MIX_COLUMNS (R187) -/
  | invMixColumns
  /-- ADD_ROUND_KEY (R188) with its round index, an unsigned number (R81) -/
  | addRoundKey (rnd : Nat)
deriving DecidableEq, Repr

end Sys2Proof
end

