-- ==== Sys2Proof/Machine/State.lean ====
section
/-! DEFINITION. The machine's state as plain data (10_state.md, R246), the reasons a step can stop, and the state after reset (R290). -/

namespace Sys2Proof.Machine

/-- Why a step stops the machine. -/
inductive Fault where
  /-- The Host's access at byte offset `addr`, of `size` bytes, got a bus error: it is misaligned, not 32 bits wide, or
  to an unmapped address (R56).  Raised by the Host's step (R246, R265), never by a command.
  Safe: no state of the core changes, and what the Host's platform does next is outside the spec (R266). -/
  | busError (addr : BitVec 18) (size : Nat)
deriving DecidableEq, Repr

/-- Why a step gives a command no meaning. -/
inductive Refusal where
  /-- A command that `exec` has no meaning for yet.  Raised by `exec` alone; no command of this model is left so.
  Safe: the model stops where the hardware goes on. -/
  | notModelled (mnemonic : String)
deriving DecidableEq, Repr

/-- What STATUS.ERR holds: the codes the core produces (R260).  Codes 8-15 are never produced, and no value stands for them. -/
inductive ErrorCode where
  /-- 0 NONE -/
  | noError
  /-- 1 INVALID_KEY_SIZE -/
  | invalidKeySize
  /-- 2 INVALID_CIPHERTEXT_LENGTH -/
  | invalidCiphertextLength
  /-- 3 PADDING_VALIDATION -/
  | paddingValidation
  /-- 4 ILLEGAL_COMMAND -/
  | illegalCommand
  /-- 5 KEY_NOT_READY -/
  | keyNotReady
  /-- 6 LENGTH_OVERFLOW -/
  | lengthOverflow
  /-- 7 INVALID_ROUND -/
  | invalidRound
deriving DecidableEq, Repr

/-- One line of a host program as the Host performs it (R88, R89, R92), in bus form. -/
inductive HostOp where
  /-- a bus write of `value` to byte offset `addr`; the lines WR and CMD have `size` 4 -/
  | write (addr : BitVec 18) (size : Nat) (value : Word)
  /-- a bus read; the line RD has `size` 4 and no asserted value, the line RD == asserts one -/
  | read (addr : BitVec 18) (size : Nat) (asserted : Option Word)
  /-- WAIT: read STATUS until BUSY = 0 (R90) -/
  | wait
  /-- read STATUS and give up the rest of the program if ERR is not 0: the check in R91 and R93 -/
  | check
  /-- read STATUS, and perform the next `n` lines only if ERR is 0: the `if e == 0` of R93 -/
  | onSuccess (n : Nat)
  /-- read OUT_LEN, and then the words of OUT that it counts: `RD OUT_LEN; RD OUT+4j` of R91 and R93 -/
  | readResult
deriving DecidableEq, Repr

/-- The result of a read that a program uses (R88, R93): where it read, what it read, and what the program asserted, if anything. -/
structure ReadResult where
  addr : BitVec 18
  value : Word
  asserted : Option Word
deriving DecidableEq, Repr

/-- Who takes a step (R246, R292). -/
inductive Turn where
  /-- the Host performs its next line -/
  | host
  /-- the Engine completes the command in flight (R241) -/
  | engine
  /-- the platform resets the core (R292) -/
  | reset
deriving DecidableEq, Repr

/-- The state of the system: the core's registers and arrays and PEND (R246), the Host agent, and the plain data
from which the open choices are taken. -/
structure State where
  /-- STATUS.KEY_VALID (R24) -/
  keyValid : Bool
  /-- STATUS.WDROP (R24) -/
  wdrop : Bool
  /-- STATUS.ERR (R24, R260) -/
  err : ErrorCode
  /-- STATUS.NR (R24) -/
  nr : BitVec 4
  /-- PEND: the command word accepted and not yet completed (R36).  STATUS.BUSY is 1 exactly while there is one. -/
  pend : Option Word
  /-- KEYLEN.LEN (R25) -/
  keyLen : Byte
  /-- IN_LEN (R26) -/
  inLen : Word
  /-- OUT_LEN (R26) -/
  outLen : Word
  /-- GF_OPS.A (R34) -/
  gfA : Byte
  /-- GF_OPS.B (R34) -/
  gfB : Byte
  /-- GF_RES.P (R34) -/
  gfP : Byte
  /-- The constant MAX_BLOCKS that CAPS reads as (R10, R27); nothing changes it. -/
  maxBlocks : Nat
  /-- KEY[0..32) (R28) -/
  key : Vector Byte 32
  /-- IV[0..16) (R29) -/
  iv : Vector Byte 16
  /-- DATA[0..16) (R30) -/
  data : Vector Byte 16
  /-- RK[0..240) (R31) -/
  rk : Vector Byte 240
  /-- The bytes of IN written since reset, by offset (R32, R291): offsets strictly rising. -/
  inBuf : List Host.Cell
  /-- The bytes of OUT written since reset, by offset (R33, R291): offsets strictly rising. -/
  outBuf : List Host.Cell
  /-- The Host's lines still to be performed, the next one first (R92). -/
  program : List HostOp
  /-- The results of the Host's RD lines, the earliest first (R88). -/
  reads : List ReadResult
  /-- The model's own: who takes the coming steps, the next one first.  It carries the nondeterminism of R246 and the
  reset input of R292; past its end the Engine moves while a command is in flight, else the Host (log entry 5). -/
  schedule : List Turn
  /-- The model's own: the number of reset events so far, which indexes the unknown contents of IN and OUT (R291). -/
  resets : Nat
  /-- The model's own: the number of reads made while busy that return any value (R61), which indexes the next. -/
  draws : Nat
deriving DecidableEq, Repr

/-- The state after reset (R290): every register and array 0, no command in flight, nothing of IN and OUT written.
The capacity is the reference value (log entry 1); the Host has no program and no turn is fixed (log entries 5, 7). -/
def State.reset : State where
  keyValid := false
  wdrop := false
  err := .noError
  nr := 0
  pend := none
  keyLen := 0
  inLen := 0
  outLen := 0
  gfA := 0
  gfB := 0
  gfP := 0
  maxBlocks := Config.referenceBlocks
  key := Vector.replicate 32 0
  iv := Vector.replicate 16 0
  data := Vector.replicate 16 0
  rk := Vector.replicate 240 0
  inBuf := []
  outBuf := []
  program := []
  reads := []
  schedule := []
  resets := 0
  draws := 0

end Sys2Proof.Machine
end

