-- ==== Sys2Proof/Machine/Ops.lean ====
section
/-! DEFINITION. The named operations over memory, registers and the command protocol that every meaning is built from. -/

namespace Sys2Proof.Machine

/-! ### Byte order on the bus (R55) -/

/-- The word whose bytes, from the least significant lane up, are `b0` to `b3` (R55). -/
def le32 (b0 b1 b2 b3 : Byte) : Word := b3 ++ b2 ++ b1 ++ b0

/-- Byte lane `k` of a word, `v[8k+7:8k]` (R58). -/
def lane (v : Word) (k : Nat) : Byte := v.extractLsb' (8 * k) 8

/-- The word at byte offset `o` of an array (R55, R57). -/
def wordAt {n : Nat} (x : Vector Byte n) (o : Nat) : Word :=
  le32 (x.getD o 0) (x.getD (o + 1) 0) (x.getD (o + 2) 0) (x.getD (o + 3) 0)

/-- An array with the word at byte offset `o` written (R55, R58). -/
def setWordAt {n : Nat} (x : Vector Byte n) (o : Nat) (v : Word) : Vector Byte n :=
  Vector.ofFn fun i => if o ≤ i.val ∧ i.val < o + 4 then lane v (i.val - o) else x[i]

/-! ### Buffer memory: lists of written bytes, offsets strictly rising -/

/-- The byte written at an offset, if one has been written since reset. -/
def Memory.get : List Host.Cell → Nat → Option Byte
  | [], _ => none
  | (a, b) :: m, k => if a = k then some b else Memory.get m k

/-- A buffer with the byte at offset `k` written, in rising order of offsets. -/
def Memory.set : List Host.Cell → Nat → Byte → List Host.Cell
  | [], k, v => [(k, v)]
  | (a, b) :: m, k, v =>
    if k < a then (k, v) :: (a, b) :: m
    else if k = a then (k, v) :: m
    else (a, b) :: Memory.set m k v

/-- A buffer with the bytes `bs` written at offsets `base`, `base + 1`, … -/
def Memory.write (m : List Host.Cell) : Nat → List Byte → List Host.Cell
  | _, [] => m
  | base, b :: bs => Memory.set (Memory.write m (base + 1) bs) base b

/-- Every offset listed is above `low` and the offsets rise strictly. -/
def Memory.risesAbove : Nat → List Host.Cell → Bool
  | _, [] => true
  | low, (a, _) :: m => decide (low < a) && Memory.risesAbove a m

/-- The offsets listed rise strictly. -/
def Memory.rises : List Host.Cell → Bool
  | [] => true
  | (a, _) :: m => Memory.risesAbove a m

/-- The canonical form of a buffer of `capacity` bytes: offsets strictly rising and inside the buffer.
An unlisted byte is one not written since reset, so no listed byte equals what an unlisted one is (log entry 2). -/
def Memory.wf (capacity : Nat) (m : List Host.Cell) : Bool :=
  Memory.rises m && m.all fun c => decide (c.1 < capacity)

/-- The written bytes of a buffer (R32, R33). -/
def State.buffer (s : State) : Config.Buffer → List Host.Cell
  | .input => s.inBuf
  | .output => s.outBuf

/-- The byte at an offset of a buffer: the byte last written there, else the unknown value it holds from reset (R291). -/
def State.bufferByte (s : State) (b : Config.Buffer) (off : Nat) : Byte :=
  match Memory.get (s.buffer b) off with
  | some v => v
  | none => Config.unwritten b s.resets off

/-- `IN[off]` (R32). -/
def State.inByte (s : State) (off : Nat) : Byte := s.bufferByte .input off

/-- `OUT[off]` (R33). -/
def State.outByte (s : State) (off : Nat) : Byte := s.bufferByte .output off

/-- The size of IN and of OUT in bytes, `16·MAX_BLOCKS` (R32, R33). -/
abbrev State.capacity (s : State) : Nat := 16 * s.maxBlocks

/-! ### Register updates the commands make -/

/-- `DATA[0..16) <- d` (R30). -/
def State.withData (s : State) (d : Vector Byte 16) : State := { s with data := d }

/-- `OUT[0..len(bs)) <- bs; OUT_LEN <- len`; the bytes of OUT beyond stay (R33, R203, R204, R222, R223). -/
def State.withResult (s : State) (bs : List Byte) (len : Nat) : State :=
  { s with outBuf := Memory.write s.outBuf 0 bs, outLen := BitVec.ofNat 32 len }

/-- `OUT_LEN <- 0` (R26, R262). -/
def State.noResult (s : State) : State := { s with outLen := 0 }

/-- `RK <- 0; STATUS.KEY_VALID <- 0; STATUS.NR <- 0` (R31, R136, R137). -/
def State.dropExpandedKey (s : State) : State :=
  { s with rk := Vector.replicate 240 0, keyValid := false, nr := 0 }

/-- `RK <- rk; STATUS.NR <- nr; STATUS.KEY_VALID <- 1` (R31, R136). -/
def State.storeExpandedKey (s : State) (rk : Vector Byte 240) (nr : Nat) : State :=
  { s with rk := rk, keyValid := true, nr := BitVec.ofNat 4 nr }

/-- `KEY[0..32) <- 0` (R137). -/
def State.eraseKey (s : State) : State := { s with key := Vector.replicate 32 0 }

/-! ### The Host's own data -/

/-- The Host's lines still to be performed replaced (R92). -/
def State.withProgram (s : State) (ops : List HostOp) : State := { s with program := ops }

/-- A read of the Host's recorded, after the reads before it (R88). -/
def State.withRead (s : State) (r : ReadResult) : State := { s with reads := s.reads ++ [r] }

/-! ### The command protocol -/

/-- Acceptance of the command word `v` (R240). -/
def State.accept (s : State) (v : Word) : State :=
  { s with pend := some v, err := .noError, wdrop := false }

/-- The bookkeeping of a completion: `STATUS.ERR <- e; STATUS.BUSY <- 0; PEND <- none` (R241). -/
def State.complete (s : State) (e : ErrorCode) : State :=
  { s with err := e, pend := none }

/-- A command that ends with its full result, ERR = 0 (R241, R260). -/
def finish (s : State) : Host.Outcome State Fault Refusal := .next (s.complete .noError)

/-- `raise E(e)`: end the command with code `e`, keeping what it wrote before (R262).  This is the core's whole
exception mechanism: there is no trap, no saved state, no handler and no return (R266, R267). -/
def raise (e : ErrorCode) (s : State) : Host.Outcome State Fault Refusal := .next (s.complete e)

/-- The completion of an illegal word: `e <- 4`, no other effect (R243). -/
def completeIllegal (s : State) : Host.Outcome State Fault Refusal := raise .illegalCommand s

/-- The reset event (R292): the state of R290 at any time, a command in flight abandoned.  IN and OUT hold new unknown
values (R291).  The build's capacity stays; the Host's program and its results, and the turns to come, are not the
core's and stay (log entry 12). -/
def State.resetEvent (s : State) : State :=
  { State.reset with
    maxBlocks := s.maxBlocks
    program := s.program
    reads := s.reads
    schedule := s.schedule
    resets := s.resets + 1
    draws := s.draws }

end Sys2Proof.Machine
end

