-- ==== Sys2Proof/Machine/Flags.lean ====
section
/-! DEFINITION. The STATUS flags (R24, R37) and the checks that read them (R138). -/

namespace Sys2Proof.Machine

/-- STATUS.BUSY: 1 while a command is accepted and not completed (R24). -/
abbrev State.busy (s : State) : Bool := s.pend.isSome

/-- The 4-bit code of STATUS.ERR (R260). -/
def errorBits : ErrorCode → BitVec 4
  | .noError => 0
  | .invalidKeySize => 1
  | .invalidCiphertextLength => 2
  | .paddingValidation => 3
  | .illegalCommand => 4
  | .keyNotReady => 5
  | .lengthOverflow => 6
  | .invalidRound => 7

/-- The STATUS word, field by field from bit 31 down: reserved 31:12, NR, ERR, reserved 3, WDROP, KEY_VALID, BUSY (R24). -/
def State.statusWord (s : State) : Word :=
  0#20 ++ s.nr ++ errorBits s.err ++ 0#1 ++ BitVec.ofBool s.wdrop ++ BitVec.ofBool s.keyValid ++ BitVec.ofBool s.busy

/-- `require_key()`: run the command if a key is present, else end it with KEY_NOT_READY from the state `onError` (R138). -/
def requireKey (s onError : State) (run : Host.Outcome State Fault Refusal) : Host.Outcome State Fault Refusal :=
  if s.keyValid then run else raise .keyNotReady onError

end Sys2Proof.Machine
end

