-- ==== Sys2Proof/Machine/Operands.lean ====
section
/-! DEFINITION. The implicit operands of the commands (R81) and the byte sequences they work on (R11, R68). -/

namespace Sys2Proof.Machine

/-- A block of 16 bytes in the byte view (R13). -/
abbrev Block := Vector Byte 16

/-- The key operand of KEY_EXPAND, `KEY[0..KEYLEN.LEN)` (R28). -/
def State.keyOperand (s : State) : List Byte := s.key.toList.take s.keyLen.toNat

/-- `n <- IN_LEN` (R26). -/
abbrev State.messageLength (s : State) : Nat := s.inLen.toNat

/-- The message operand, `IN[0..IN_LEN)` (R32). -/
def State.message (s : State) : List Byte := (List.range s.messageLength).map s.inByte

/-- `Nr = STATUS.NR` (R138). -/
abbrev State.rounds (s : State) : Nat := s.nr.toNat

/-- Elementwise XOR of two blocks (R11). -/
def xorBlock (x y : Block) : Block := Vector.ofFn fun j => x[j] ^^^ y[j]

/-- Block `j` of a byte sequence, bytes `16j … 16j+15` (R68). -/
def blockAt (bs : List Byte) (j : Nat) : Block := Vector.ofFn fun k => bs.getD (16 * j + k.val) 0

/-- The blocks of a byte sequence whose length is a multiple of 16, in order (R68). -/
def blocksOf (bs : List Byte) : List Block := (List.range (bs.length / 16)).map (blockAt bs)

end Sys2Proof.Machine
end

