-- ==== Sys2Proof/Machine/BlockTransform.lean ====
section
/-! DEFINITION. The block transform (R160-R170) and the commands that apply it to DATA (R180-R188). -/

namespace Sys2Proof.Machine

/-! ### Block and state -/

/-- The state view of a block: a 4×4 matrix of bytes, rows first (R13). -/
abbrev StateMatrix := Vector (Vector Byte 4) 4

/-- The matrix whose entry in row `r`, column `c` is `f r c`. -/
def buildMatrix (f : Fin 4 → Fin 4 → Byte) : StateMatrix := Vector.ofFn fun r => Vector.ofFn fun c => f r c

/-- `StateOf(B)`: `s[r][c] = B[r + 4c]` (R160). -/
def stateOf (b : Block) : StateMatrix := buildMatrix fun r c => b[r.val + 4 * c.val]

/-- `BlockOf(s)`: `B[r + 4c] = s[r][c]` (R161). -/
def blockOf (s : StateMatrix) : Block := Vector.ofFn fun j => s[j.val % 4][j.val / 4]

/-! ### Round operations -/

/-- SubBytes (R162). -/
def subBytes (s : StateMatrix) : StateMatrix := buildMatrix fun r c => sbox s[r][c]

/-- InvSubBytes (R163). -/
def invSubBytes (s : StateMatrix) : StateMatrix := buildMatrix fun r c => invSbox s[r][c]

/-- ShiftRows: `s[r][(c + r) mod 4]` (R164); `Fin 4` addition is modulo 4. -/
def shiftRows (s : StateMatrix) : StateMatrix := buildMatrix fun r c => s[r][c + r]

/-- InvShiftRows: `s[r][(c - r) mod 4]` (R165); `Fin 4` subtraction is modulo 4. -/
def invShiftRows (s : StateMatrix) : StateMatrix := buildMatrix fun r c => s[r][c - r]

/-- The matrix whose row `r` is the first row turned right by `r` places.  Both matrices of R166 and R167 are so built:
each multiplies a column, as a polynomial, by one fixed polynomial. -/
def turnedRows (first : Vector Byte 4) : StateMatrix := buildMatrix fun r c => first[c - r]

/-- The matrix `M` of MixColumns, by its first row (R166). -/
def mixMatrix : StateMatrix := turnedRows #v[0x02, 0x03, 0x01, 0x01]

/-- The matrix `Mi` of InvMixColumns, by its first row (R167). -/
def invMixMatrix : StateMatrix := turnedRows #v[0x0e, 0x0b, 0x0d, 0x09]

/-- Each column multiplied by the matrix `m` over GF(2^8) (R166). -/
def mulColumns (m s : StateMatrix) : StateMatrix := buildMatrix fun r c =>
  gmul m[r][0] s[0][c] ^^^ gmul m[r][1] s[1][c] ^^^ gmul m[r][2] s[2][c] ^^^ gmul m[r][3] s[3][c]

/-- MixColumns (R166). -/
def mixColumns (s : StateMatrix) : StateMatrix := mulColumns mixMatrix s

/-- InvMixColumns (R167). -/
def invMixColumns (s : StateMatrix) : StateMatrix := mulColumns invMixMatrix s

/-- `RK[i]`.  The commands read RK below 16·(NR+1), which is at most 240 for every NR the core sets (log entry 13). -/
def rkByte (rk : Vector Byte 240) (i : Nat) : Byte := rk.getD i 0

/-- AddRoundKey with round key `k` (R168). -/
def addRoundKey (rk : Vector Byte 240) (s : StateMatrix) (k : Nat) : StateMatrix := buildMatrix fun r c =>
  s[r][c] ^^^ rkByte rk (16 * k + 4 * c.val + r.val)

/-! ### The ciphers -/

/-- One full round of the forward cipher, round `i` (R169). -/
def encryptRound (rk : Vector Byte 240) (s : StateMatrix) (i : Nat) : StateMatrix :=
  addRoundKey rk (mixColumns (shiftRows (subBytes s))) i

/-- `Encrypt(B, RK, Nr)` (R169): the loop index is the round counter, from 1 up to Nr−1. -/
def encrypt (rk : Vector Byte 240) (nr : Nat) (b : Block) : Block :=
  let first := addRoundKey rk (stateOf b) 0
  let inner := (List.range' 1 (nr - 1)).foldl (encryptRound rk) first
  blockOf (addRoundKey rk (shiftRows (subBytes inner)) nr)

/-- One full round of the inverse cipher, round `i` (R170). -/
def decryptRound (rk : Vector Byte 240) (s : StateMatrix) (i : Nat) : StateMatrix :=
  invMixColumns (addRoundKey rk (invSubBytes (invShiftRows s)) i)

/-- `Decrypt(B, RK, Nr)` (R170): the loop index is the round counter, from Nr−1 down to 1. -/
def decrypt (rk : Vector Byte 240) (nr : Nat) (b : Block) : Block :=
  let first := addRoundKey rk (stateOf b) nr
  let inner := (List.range' 1 (nr - 1)).reverse.foldl (decryptRound rk) first
  blockOf (addRoundKey rk (invSubBytes (invShiftRows inner)) 0)

/-! ### Commands -/

/-- BLOCK_ENC (R180). -/
def execBlockEnc (s : State) : Host.Outcome State Fault Refusal :=
  requireKey s s (finish (s.withData (encrypt s.rk s.rounds s.data)))

/-- BLOCK_DEC (R181). -/
def execBlockDec (s : State) : Host.Outcome State Fault Refusal :=
  requireKey s s (finish (s.withData (decrypt s.rk s.rounds s.data)))

/-- A single-step command: one round operation applied to DATA, with ERR = 0 (R182-R187). -/
def stepData (f : StateMatrix → StateMatrix) (s : State) : Host.Outcome State Fault Refusal :=
  finish (s.withData (blockOf (f (stateOf s.data))))

/-- SUB_BYTES (R182). -/
def execSubBytes (s : State) : Host.Outcome State Fault Refusal := stepData subBytes s

/-- INV_SUB_BYTES (R183). -/
def execInvSubBytes (s : State) : Host.Outcome State Fault Refusal := stepData invSubBytes s

/-- SHIFT_ROWS (R184). -/
def execShiftRows (s : State) : Host.Outcome State Fault Refusal := stepData shiftRows s

/-- INV_SHIFT_ROWS (R185). -/
def execInvShiftRows (s : State) : Host.Outcome State Fault Refusal := stepData invShiftRows s

/-- MIX_COLUMNS (R186). -/
def execMixColumns (s : State) : Host.Outcome State Fault Refusal := stepData mixColumns s

/-- INV_MIX_COLUMNS (R187). -/
def execInvMixColumns (s : State) : Host.Outcome State Fault Refusal := stepData invMixColumns s

/-- ADD_ROUND_KEY with round index `rnd` (R188): the key check comes before the round check (R263). -/
def execAddRoundKey (rnd : Nat) (s : State) : Host.Outcome State Fault Refusal :=
  requireKey s s <|
    if rnd > s.rounds then raise .invalidRound s
    else stepData (fun m => addRoundKey s.rk m rnd) s

end Sys2Proof.Machine
end

