-- ==== Sys2Proof/Machine/Padding.lean ====
section
/-! DEFINITION. PKCS7 padding at block size 16 (R200-R202) and the commands PAD and UNPAD (R203, R204). -/

namespace Sys2Proof.Machine

/-- The appended-byte count of a message of `len` bytes, in 1..16 (R200). -/
def padCount (len : Nat) : Nat := 16 - len % 16

/-- `Pad(d)` (R200). -/
def padBytes (d : List Byte) : List Byte :=
  d ++ List.replicate (padCount d.length) (BitVec.ofNat 8 (padCount d.length))

/-- `UnpadCheck(X)`: the claimed count if it is valid, else none, its checks in the order of R201. -/
def unpadCheck (X : List Byte) : Option Nat :=
  match X.getLast? with
  | none => none
  | some last =>
    let p := last.toNat
    if p < 1 ∨ p > 16 then none
    else if p > X.length then none
    else if (X.drop (X.length - p)).any (fun b => b ≠ last) then none
    else some p

/-- `Unpad(X)`, none standing for PaddingValidationError (R202). -/
def unpadBytes (X : List Byte) : Option (List Byte) :=
  (unpadCheck X).map fun p => X.take (X.length - p)

/-- PAD (R203). -/
def execPad (s : State) : Host.Outcome State Fault Refusal :=
  if s.messageLength > s.capacity - 1 then raise .lengthOverflow s.noResult
  else
    let P := padBytes s.message
    finish (s.withResult P P.length)

/-- UNPAD (R204). -/
def execUnpad (s : State) : Host.Outcome State Fault Refusal :=
  let n := s.messageLength
  if n > s.capacity then raise .lengthOverflow s.noResult
  else
    match unpadCheck s.message with
    | none => raise .paddingValidation s.noResult
    | some p => finish (s.withResult s.message (n - p))

end Sys2Proof.Machine
end

