-- ==== Sys2Proof/Machine/Cbc.lean ====
section
/-! DEFINITION. CBC chaining over a whole message (R220, R221) and the commands CBC_ENC and CBC_DEC (R222, R223). -/

namespace Sys2Proof.Machine

/-- The encryption loop of R220 from a chaining value on, over the blocks left. -/
def cbcEncryptFrom (rk : Vector Byte 240) (nr : Nat) : Block → List Block → List Byte
  | _, [] => []
  | chain, p :: ps =>
    let c := encrypt rk nr (xorBlock p chain)
    c.toList ++ cbcEncryptFrom rk nr c ps

/-- `CbcEncrypt(m, iv, RK, Nr)` (R220). -/
def cbcEncrypt (rk : Vector Byte 240) (nr : Nat) (iv : Block) (m : List Byte) : List Byte :=
  cbcEncryptFrom rk nr iv (blocksOf (padBytes m))

/-- The decryption loop of R221 from a chaining value on, over the blocks left. -/
def cbcDecryptFrom (rk : Vector Byte 240) (nr : Nat) : Block → List Block → List Byte
  | _, [] => []
  | chain, c :: cs => (xorBlock (decrypt rk nr c) chain).toList ++ cbcDecryptFrom rk nr c cs

/-- `CbcDecryptRaw(c, iv, RK, Nr)`, before unpadding (R221). -/
def cbcDecryptRaw (rk : Vector Byte 240) (nr : Nat) (iv : Block) (c : List Byte) : List Byte :=
  cbcDecryptFrom rk nr iv (blocksOf c)

/-- CBC_ENC (R222). -/
def execCbcEnc (s : State) : Host.Outcome State Fault Refusal :=
  requireKey s s.noResult <|
    if s.messageLength > s.capacity - 1 then raise .lengthOverflow s.noResult
    else
      let C := cbcEncrypt s.rk s.rounds s.iv s.message
      finish (s.withResult C C.length)

/-- CBC_DEC (R223), its checks in the order of R263; on a padding error the decrypted bytes are zeroed (R262). -/
def execCbcDec (s : State) : Host.Outcome State Fault Refusal :=
  requireKey s s.noResult <|
    let n := s.messageLength
    if n = 0 ∨ n % 16 ≠ 0 then raise .invalidCiphertextLength s.noResult
    else if n > s.capacity then raise .lengthOverflow s.noResult
    else
      let X := cbcDecryptRaw s.rk s.rounds s.iv s.message
      match unpadCheck X with
      | none => raise .paddingValidation (s.withResult (List.replicate n 0) 0)
      | some p => finish (s.withResult X (n - p))

end Sys2Proof.Machine
end

