-- ==== Sys2Proof/Machine/Control.lean ====
section
/-! DEFINITION. The command NOP (R242). -/

namespace Sys2Proof.Machine

/-- NOP: nothing beyond the completion itself (R242). -/
def execNop (s : State) : Host.Outcome State Fault Refusal := finish s

end Sys2Proof.Machine
end

