-- ==== Sys2Proof/Machine/KeySchedule.lean ====
section
/-! DEFINITION. The key schedule (R130-R135) and the commands KEY_EXPAND and KEY_CLEAR (R136, R137). -/

namespace Sys2Proof.Machine

/-- Four consecutive bytes of the expanded key, the lowest position first (R15, R132). -/
abbrev KeyWord := Vector Byte 4

/-- `Nr(n)` for a key of `n` bytes; no other length has a round count (R130). -/
def roundsForKey : Nat → Option Nat
  | 16 => some 10
  | 24 => some 12
  | 32 => some 14
  | _ => none

/-- `W[i..i+4)` (R132). -/
def keyWordAt (W : List Byte) (i : Nat) : KeyWord := Vector.ofFn fun j => W.getD (i + j.val) 0

/-- XOR of two key words (R132). -/
def xorKeyWord (t u : KeyWord) : KeyWord := Vector.ofFn fun j => t[j] ^^^ u[j]

/-- S-Box substitution of each byte of a key word (R133, R134). -/
def subKeyWord (t : KeyWord) : KeyWord := t.map sbox

/-- Rotation of a key word left by one byte (R133). -/
def rotKeyWord (t : KeyWord) : KeyWord := #v[t[1], t[2], t[3], t[0]]

/-- XOR of the round constant `Rcon[it]` into the first byte of a key word (R133). -/
def rconKeyWord (it : Nat) (t : KeyWord) : KeyWord := #v[t[0] ^^^ rcon it, t[1], t[2], t[3]]

/-- The schedule core at Rcon counter `it`: rotate, substitute, XOR the round constant (R133). -/
def scheduleCore (it : Nat) (t : KeyWord) : KeyWord := rconKeyWord it (subKeyWord (rotKeyWord t))

/-- What the previous word becomes before the XOR, for the new word at byte position `i` (R133, R134). -/
def transformKeyWord (n i it : Nat) (t : KeyWord) : KeyWord :=
  if i % n = 0 then scheduleCore it t
  else if n = 32 ∧ i % 32 = 16 then subKeyWord t
  else t

/-- The new word at byte position `i`: the transformed previous word XOR the word `n` bytes earlier (R132). -/
def newKeyWord (n i it : Nat) (W : List Byte) : KeyWord :=
  xorKeyWord (transformKeyWord n i it (keyWordAt W (i - 4))) (keyWordAt W (i - n))

/-- The loop of R135, with the words left to generate, the position `i`, the Rcon counter `it` and the bytes so far. -/
def expandLoop (n : Nat) : Nat → Nat → Nat → List Byte → List Byte
  | 0, _, _, W => W
  | k + 1, i, it, W =>
    expandLoop n k (i + 4) (if i % n = 0 then it + 1 else it) (W ++ (newKeyWord n i it W).toList)

/-- The expanded key of a key, for `nr` rounds: the key, then words until 16·(nr+1) bytes (R131, R132, R135). -/
def keyExpansion (key : List Byte) (nr : Nat) : List Byte :=
  expandLoop key.length ((16 * (nr + 1) - key.length) / 4) key.length 1 key

/-- RK holding an expanded key, zero beyond it (R31). -/
def roundKeyStore (W : List Byte) : Vector Byte 240 := Vector.ofFn fun j => W.getD j.val 0

/-- KEY_EXPAND (R136). -/
def execKeyExpand (s : State) : Host.Outcome State Fault Refusal :=
  match roundsForKey s.keyLen.toNat with
  | none => raise .invalidKeySize s.dropExpandedKey
  | some nr => finish (s.storeExpandedKey (roundKeyStore (keyExpansion s.keyOperand nr)) nr)

/-- KEY_CLEAR (R137). -/
def execKeyClear (s : State) : Host.Outcome State Fault Refusal := finish s.eraseKey.dropExpandedKey

end Sys2Proof.Machine
end

