-- ==== Sys2Proof/WellFormed.lean ====
section
/-! DEFINITION. Which commands a command word can carry (R81, R89). -/

namespace Sys2Proof

/-- A command is well formed when its operand fits its field: the round index is in 0..15 (R81, R89). -/
def Instr.wellFormed : Instr → Bool
  | .nop => true
  | .keyExpand => true
  | .blockEnc => true
  | .blockDec => true
  | .cbcEnc => true
  | .cbcDec => true
  | .pad => true
  | .unpad => true
  | .gfMul => true
  | .keyClear => true
  | .subBytes => true
  | .invSubBytes => true
  | .shiftRows => true
  | .invShiftRows => true
  | .mixColumns => true
  | .invMixColumns => true
  | .addRoundKey rnd => decide (rnd < 16)

end Sys2Proof
end

