-- ==== Sys2Proof/Decode.lean ====
section
/-! DEFINITION. The command word: decoding (R83), encoding (R80, R84) and the opcode table's view of both. -/

namespace Sys2Proof

/-- Why a command word is illegal: the three cases of R85. -/
inductive IllegalReason where
  /-- one of bits 31:12 or 7:6 is 1 -/
  | reservedBits
  /-- RND is not 0 with OP other than 0x16 -/
  | roundNotAllowed
  /-- OP is unassigned -/
  | unassignedOp
deriving DecidableEq, Repr

/-- What the decoder answers: a command, or Illegal with the reason by name (R83, R85). -/
inductive Decoded where
  | command (i : Instr)
  | illegal (why : IllegalReason)
deriving DecidableEq, Repr

/-- Field OP, bits 5:0 (R80). -/
def cmdOp (w : Word) : BitVec 6 := w.extractLsb' 0 6

/-- Reserved bits 7:6 (R80). -/
def cmdReservedLow (w : Word) : BitVec 2 := w.extractLsb' 6 2

/-- Field RND, bits 11:8 (R80). -/
def cmdRnd (w : Word) : BitVec 4 := w.extractLsb' 8 4

/-- Reserved bits 31:12 (R80). -/
def cmdReservedHigh (w : Word) : BitVec 20 := w.extractLsb' 12 20

/-- The command of an OP value that takes no round index (R82). -/
def commandOfOp (op : Nat) : Option Instr :=
  match op with
  | 0x00 => some .nop
  | 0x01 => some .keyExpand
  | 0x02 => some .blockEnc
  | 0x03 => some .blockDec
  | 0x04 => some .cbcEnc
  | 0x05 => some .cbcDec
  | 0x06 => some .pad
  | 0x07 => some .unpad
  | 0x08 => some .gfMul
  | 0x09 => some .keyClear
  | 0x10 => some .subBytes
  | 0x11 => some .invSubBytes
  | 0x12 => some .shiftRows
  | 0x13 => some .invShiftRows
  | 0x14 => some .mixColumns
  | 0x15 => some .invMixColumns
  | _ => none

/-- `decode`, total on all 2^32 words, its checks in the order of R83. -/
def decode (cmd : Word) : Decoded :=
  if cmdReservedHigh cmd ≠ 0 ∨ cmdReservedLow cmd ≠ 0 then .illegal .reservedBits
  else if cmdOp cmd = 0x16 then .command (.addRoundKey (cmdRnd cmd).toNat)
  else if cmdRnd cmd ≠ 0 then .illegal .roundNotAllowed
  else
    match commandOfOp (cmdOp cmd).toNat with
    | some i => .command i
    | none => .illegal .unassignedOp

/-- The command read, if the word is legal. -/
def Decoded.command? : Decoded → Option Instr
  | .command i => some i
  | .illegal _ => none

/-- The OP value of a command (R82). -/
def opcodeOf : Instr → BitVec 6
  | .nop => 0x00
  | .keyExpand => 0x01
  | .blockEnc => 0x02
  | .blockDec => 0x03
  | .cbcEnc => 0x04
  | .cbcDec => 0x05
  | .pad => 0x06
  | .unpad => 0x07
  | .gfMul => 0x08
  | .keyClear => 0x09
  | .subBytes => 0x10
  | .invSubBytes => 0x11
  | .shiftRows => 0x12
  | .invShiftRows => 0x13
  | .mixColumns => 0x14
  | .invMixColumns => 0x15
  | .addRoundKey _ => 0x16

/-- The RND field of a command: its round index for ADD_ROUND_KEY, 0 for every other command (R23, R81).
The field has four bits; a round index of 16 or more is not well formed (log entry 14). -/
def rndFieldOf : Instr → BitVec 4
  | .addRoundKey rnd => BitVec.ofNat 4 rnd
  | _ => 0

/-- The command word of a command, field by field from bit 31 down (R80). -/
def encode (i : Instr) : Word :=
  0#20 ++ rndFieldOf i ++ 0#2 ++ opcodeOf i

/-- The mask of a command's opcode-table row (R84). -/
def maskOf : Instr → Word
  | .addRoundKey _ => 0xFFFFF0FF
  | _ => 0xFFFFFFFF

/-- The match value of a command's opcode-table row (R84). -/
def matchOf (i : Instr) : Word := (opcodeOf i).zeroExtend 32

/-- The command the decoder reads from a word of `nbits` bits numbered as spec/opcode_table.json numbers them:
a command is one 32-bit word (R80), written whole to CMD, so the bits are the word's own. -/
def decodeTableWord (nbits w : Nat) : Option Instr :=
  (decode (BitVec.ofNat 32 (w % 2 ^ nbits))).command?

end Sys2Proof
end

