-- ==== Sys2Proof/Machine/Bus.lean ====
section
/-! DEFINITION. The Host's bus: the address map (R22, R50-R53) and the read and write of a word (R54-R61). -/

namespace Sys2Proof.Machine

/-! ### Register offsets (R22) -/

/-- CMD -/
def regCmd : BitVec 18 := 0x000
/-- STATUS -/
def regStatus : BitVec 18 := 0x004
/-- KEYLEN -/
def regKeyLen : BitVec 18 := 0x008
/-- IN_LEN -/
def regInLen : BitVec 18 := 0x00C
/-- OUT_LEN -/
def regOutLen : BitVec 18 := 0x010
/-- GF_OPS -/
def regGfOps : BitVec 18 := 0x014
/-- GF_RES -/
def regGfRes : BitVec 18 := 0x018
/-- CAPS -/
def regCaps : BitVec 18 := 0x01C
/-- base of the KEY window -/
def baseKey : BitVec 18 := 0x020
/-- base of the IV window -/
def baseIv : BitVec 18 := 0x040
/-- base of the DATA window -/
def baseData : BitVec 18 := 0x050
/-- base of the RK window -/
def baseRk : BitVec 18 := 0x100
/-- base of the IN buffer -/
def baseIn : BitVec 18 := 0x10000
/-- base of the OUT buffer -/
def baseOut : BitVec 18 := 0x20000

/-- The register or array byte that an address of the map names (R22, R51); `o` is the offset in the array. -/
inductive BusTarget where
  | cmd
  | status
  | keyLen
  | inLen
  | outLen
  | gfOps
  | gfRes
  | caps
  | key (o : Nat)
  | iv (o : Nat)
  | data (o : Nat)
  | rk (o : Nat)
  | input (o : Nat)
  | output (o : Nat)
deriving DecidableEq, Repr

/-- The address map of R22 and R52 for a build of `maxBlocks`; none is an unmapped address (R53). -/
def busTarget (maxBlocks : Nat) (a : BitVec 18) : Option BusTarget :=
  let n := a.toNat
  if n = 0x000 then some .cmd
  else if n = 0x004 then some .status
  else if n = 0x008 then some .keyLen
  else if n = 0x00C then some .inLen
  else if n = 0x010 then some .outLen
  else if n = 0x014 then some .gfOps
  else if n = 0x018 then some .gfRes
  else if n = 0x01C then some .caps
  else if 0x020 ≤ n ∧ n < 0x040 then some (.key (n - 0x020))
  else if 0x040 ≤ n ∧ n < 0x050 then some (.iv (n - 0x040))
  else if 0x050 ≤ n ∧ n < 0x060 then some (.data (n - 0x050))
  else if 0x100 ≤ n ∧ n < 0x1F0 then some (.rk (n - 0x100))
  else if 0x10000 ≤ n ∧ n < 0x10000 + 16 * maxBlocks then some (.input (n - 0x10000))
  else if 0x20000 ≤ n ∧ n < 0x20000 + 16 * maxBlocks then some (.output (n - 0x20000))
  else none

/-- What an access reaches, none standing for a bus error: misaligned, not 32 bits wide, or unmapped (R54, R56). -/
def State.admitted (s : State) (a : BitVec 18) (size : Nat) : Option BusTarget :=
  if a.toNat % 4 ≠ 0 ∨ size ≠ 4 then none else busTarget s.maxBlocks a

/-- The bus's answer to one access: whether it is an error response, the word read (0 for a write), and the state after. -/
structure BusReply where
  error : Bool
  value : Word
  state : State
deriving DecidableEq, Repr

/-- The error response: a read returns 0, nothing changes (R56). -/
def busErrorReply (s : State) : BusReply := ⟨true, 0, s⟩

/-! ### Reads -/

/-- The word of a buffer at offset `o` (R55, R57). -/
def State.bufferWord (s : State) (b : Config.Buffer) (o : Nat) : Word :=
  le32 (s.bufferByte b o) (s.bufferByte b (o + 1)) (s.bufferByte b (o + 2)) (s.bufferByte b (o + 3))

/-- The exact word a register or window word holds (R57): CMD reads 0 and reserved bits read 0. -/
def State.readTarget (s : State) : BusTarget → Word
  | .cmd => 0
  | .status => s.statusWord
  | .keyLen => s.keyLen.zeroExtend 32
  | .inLen => s.inLen
  | .outLen => s.outLen
  | .gfOps => 0#16 ++ s.gfB ++ s.gfA
  | .gfRes => s.gfP.zeroExtend 32
  | .caps => BitVec.ofNat 32 s.maxBlocks
  | .key o => wordAt s.key o
  | .iv o => wordAt s.iv o
  | .data o => wordAt s.data o
  | .rk o => wordAt s.rk o
  | .input o => s.bufferWord .input o
  | .output o => s.bufferWord .output o

/-- The registers whose read is exact while BUSY = 1: STATUS, CAPS and CMD (R61). -/
def exactWhileBusy : BusTarget → Bool
  | .cmd => true
  | .status => true
  | .caps => true
  | _ => false

/-- `MemRead(a, size)` (R57).  While BUSY = 1 every other register and window reads as a fresh free value (R61). -/
def busRead (s : State) (a : BitVec 18) (size : Nat) : BusReply :=
  match s.admitted a size with
  | none => busErrorReply s
  | some t =>
    if s.busy && !exactWhileBusy t then ⟨false, Config.busyRead s.draws, { s with draws := s.draws + 1 }⟩
    else ⟨false, s.readTarget t, s⟩

/-! ### Writes -/

/-- The effect of an admitted write while idle (R58): a CMD write is accepted (R240), reserved bits are ignored, and a
write to a read-only register or window does nothing. -/
def State.writeTarget (s : State) (v : Word) : BusTarget → State
  | .cmd => s.accept v
  | .keyLen => { s with keyLen := lane v 0 }
  | .inLen => { s with inLen := v }
  | .gfOps => { s with gfA := lane v 0, gfB := lane v 1 }
  | .key o => { s with key := setWordAt s.key o v }
  | .iv o => { s with iv := setWordAt s.iv o v }
  | .data o => { s with data := setWordAt s.data o v }
  | .input o => { s with inBuf := Memory.write s.inBuf o [lane v 0, lane v 1, lane v 2, lane v 3] }
  | .status => s
  | .outLen => s
  | .gfRes => s
  | .caps => s
  | .rk _ => s
  | .output _ => s

/-- `MemWrite(a, size, v)` (R58).  While BUSY = 1 the write is dropped and sets WDROP (R60). -/
def busWrite (s : State) (a : BitVec 18) (size : Nat) (v : Word) : BusReply :=
  match s.admitted a size with
  | none => busErrorReply s
  | some t => if s.busy then ⟨false, 0, { s with wdrop := true }⟩ else ⟨false, 0, s.writeTarget v t⟩

end Sys2Proof.Machine
end

