-- ==== Sys2Proof/Machine/HostAgent.lean ====
section
/-! DEFINITION. The Host agent: it performs the lines of its program, one bus step at a time (R14, R88-R92). -/

namespace Sys2Proof.Machine

/-- Go on from a bus reply, a bus error being a fault of the Host's step (R56, R246, R265). -/
def afterReply (r : BusReply) (a : BitVec 18) (size : Nat) (next : State) : Host.Outcome State Fault Refusal :=
  if r.error then .fault (.busError a size) else .next next

/-- `ceil(n/4)` (R91). -/
def wordCount (n : Nat) : Nat := (n + 3) / 4

/-- Word address `base + 4j` (R51). -/
def wordAddr (base : BitVec 18) (j : Nat) : BitVec 18 := base + BitVec.ofNat 18 (4 * j)

/-- The reads `RD OUT+4j` of a result of `n` bytes, `ceil(n/4)` words (R91).  `OUT+4j` names a word of the OUT window
(R88, R51), so there are at most `4·maxBlocks` of them (log entry 17). -/
def resultReads (maxBlocks n : Nat) : List HostOp :=
  (List.range (min (wordCount n) (4 * maxBlocks))).map fun j => .read (wordAddr baseOut j) 4 none

/-- The ERR field of a STATUS word is 0 (R24). -/
def noErrorIn (status : Word) : Bool := status.extractLsb' 4 4 == 0

/-- Perform one line with the lines `rest` after it (R88-R91, R93).
A WAIT whose read shows BUSY = 1 stays the next line, so WAIT is the loop of R90. -/
def performOp (s : State) (rest : List HostOp) : HostOp → Host.Outcome State Fault Refusal
  | .write a size v =>
    let r := busWrite s a size v
    afterReply r a size (r.state.withProgram rest)
  | .read a size asserted =>
    let r := busRead s a size
    afterReply r a size ((r.state.withRead ⟨a, r.value, asserted⟩).withProgram rest)
  | .wait =>
    let r := busRead s regStatus 4
    afterReply r regStatus 4 (if r.value.getLsbD 0 then r.state else r.state.withProgram rest)
  | .check =>
    let r := busRead s regStatus 4
    afterReply r regStatus 4 (r.state.withProgram (if noErrorIn r.value then rest else []))
  | .onSuccess n =>
    let r := busRead s regStatus 4
    afterReply r regStatus 4 ((r.state.withRead ⟨regStatus, r.value, none⟩).withProgram
      (if noErrorIn r.value then rest else rest.drop n))
  | .readResult =>
    let r := busRead s regOutLen 4
    afterReply r regOutLen 4 ((r.state.withRead ⟨regOutLen, r.value, none⟩).withProgram
      (resultReads s.maxBlocks r.value.toNat ++ rest))

/-- The Host's step: its next line, or nothing once its program has ended (R92). -/
def hostStep (s : State) : Host.Outcome State Fault Refusal :=
  match s.program with
  | [] => .next s
  | op :: rest => performOp s rest op

/-- Give the Host a program and fix the turns to come: how a program comes to run (R92; log entry 15). -/
def State.load (s : State) (ops : List HostOp) (turns : List Turn) : State :=
  { s with program := ops, schedule := turns }

/-! ### Host program syntax (R88, R89) -/

/-- A line of a host program as it is written (R88), and the three steps of R91 and R93 that depend on a value read. -/
inductive HostLine where
  /-- WR addr, value -/
  | wr (addr : BitVec 18) (value : Word)
  /-- RD addr -/
  | rd (addr : BitVec 18)
  /-- RD addr == value -/
  | rdEq (addr : BitVec 18) (value : Word)
  /-- CMD MNEMONIC -/
  | cmd (i : Instr)
  /-- WAIT -/
  | wait
  /-- check STATUS.ERR = 0 (R91, R93) -/
  | check
  /-- `e <- STATUS.ERR`, and the next `n` lines only if `e == 0` (R93) -/
  | onSuccess (n : Nat)
  /-- RD OUT_LEN, and RD OUT+4j for the words it counts (R91, R93) -/
  | readResult
deriving DecidableEq, Repr

/-- The bus transaction of a line; the assembler refuses a round index outside 0..15 (R89). -/
def assembleLine : HostLine → Option HostOp
  | .wr a v => some (.write a 4 v)
  | .rd a => some (.read a 4 none)
  | .rdEq a v => some (.read a 4 (some v))
  | .cmd i => if i.wellFormed then some (.write regCmd 4 (encode i)) else none
  | .wait => some .wait
  | .check => some .check
  | .onSuccess n => some (.onSuccess n)
  | .readResult => some .readResult

/-- A program assembled, or none if the assembler refuses a line (R89). -/
def assemble : List HostLine → Option (List HostOp)
  | [] => some []
  | l :: ls =>
    match assembleLine l, assemble ls with
    | some op, some ops => some (op :: ops)
    | _, _ => none

/-! ### Pseudo-instructions (R91, R93) -/

/-- `LE(bs[4j..4j+4))`, bytes beyond the sequence being 0 (R91; log entry 17). -/
def packWord (bs : List Byte) (j : Nat) : Word :=
  le32 (bs.getD (4 * j) 0) (bs.getD (4 * j + 1) 0) (bs.getD (4 * j + 2) 0) (bs.getD (4 * j + 3) 0)

/-- WR lines for the words of a byte sequence from a window's base. -/
def writeLines (base : BitVec 18) (bs : List Byte) : List HostLine :=
  (List.range (wordCount bs.length)).map fun j => .wr (wordAddr base j) (packWord bs j)

/-- RD lines for `n` words from a window's base. -/
def readLines (base : BitVec 18) (n : Nat) : List HostLine :=
  (List.range n).map fun j => .rd (wordAddr base j)

/-- A CMD line and its WAIT. -/
def runLines (i : Instr) : List HostLine := [.cmd i, .wait]

/-- The operand writes of `keyExpand(key)`: KEYLEN, and the words of the key (R91).
DESIGN CHOICE (log entry 23) for a length other than 16, 24 or 32, of which R91 gives no expansion: no KEY word is
written, and KEYLEN takes the length, or 255 if its 8 bits do not hold it, so that KEY_EXPAND ends with code 1 (R136). -/
def keyOperandLines (key : List Byte) : List HostLine :=
  match roundsForKey key.length with
  | some _ => [.wr regKeyLen (BitVec.ofNat 32 key.length)] ++ writeLines baseKey key
  | none => [.wr regKeyLen (BitVec.ofNat 32 (min key.length 255))]

/-- `RD RKj` for j = 0..4(Nr+1)−1; a key of another length has no Nr, and the check before them ends the program (R91). -/
def roundKeyReads (key : List Byte) : List HostLine :=
  match roundsForKey key.length with
  | some nr => readLines baseRk (4 * (nr + 1))
  | none => []

/-- `keyExpand(key)` (R91). -/
def keyExpandLines (key : List Byte) : List HostLine :=
  keyOperandLines key ++ runLines .keyExpand ++ [.check] ++ roundKeyReads key

/-- `blockEncrypt(block, …)` after a keyExpand (R91). -/
def blockEncryptLines (block : Block) : List HostLine :=
  writeLines baseData block.toList ++ runLines .blockEnc ++ readLines baseData 4

/-- `blockDecrypt(block, …)` after a keyExpand (R91). -/
def blockDecryptLines (block : Block) : List HostLine :=
  writeLines baseData block.toList ++ runLines .blockDec ++ readLines baseData 4

/-- The words of a message into IN and its length into IN_LEN (R91, R93).
DESIGN CHOICE (log entry 24) for a message longer than IN: its words are written all the same, each to `IN+4j`, whatever
the map has there past the window. -/
def messageLines (d : List Byte) : List HostLine :=
  writeLines baseIn d ++ [.wr regInLen (BitVec.ofNat 32 d.length)]

/-- `pkcs7_pad(d, 16)` (R91). -/
def padLines (d : List Byte) : List HostLine := messageLines d ++ runLines .pad ++ [.readResult]

/-- `pkcs7_unpad(p, 16)`, reading STATUS for the PaddingValidationError (R91). -/
def unpadLines (p : List Byte) : List HostLine :=
  messageLines p ++ runLines .unpad ++ [.rd regStatus, .readResult]

/-- `multiply(a, b)` (R91). -/
def multiplyLines (a b : Byte) : List HostLine :=
  [.wr regGfOps (0#16 ++ b ++ a)] ++ runLines .gfMul ++ [.rd regGfRes]

/-- The expansion of R93, for the CBC command `i` on the bytes `d`: keyExpand and its check, the operands, the command,
`e <- STATUS.ERR`, the result if `e == 0`, and KEY_CLEAR. -/
def messageCallLines (i : Instr) (d : List Byte) (iv : Block) (key : List Byte) : List HostLine :=
  keyExpandLines key ++ [.check] ++ writeLines baseIv iv.toList ++ messageLines d ++ runLines i
    ++ [.onSuccess 1, .readResult] ++ runLines .keyClear

/-- `cbcEncrypt(m, iv, key)` (R93). -/
def cbcEncryptLines (m : List Byte) (iv : Block) (key : List Byte) : List HostLine :=
  messageCallLines .cbcEnc m iv key

/-- `cbcDecrypt(c, iv, key)` (R93). -/
def cbcDecryptLines (c : List Byte) (iv : Block) (key : List Byte) : List HostLine :=
  messageCallLines .cbcDec c iv key

end Sys2Proof.Machine
end

