-- ==== Sys2Proof/Machine/Agents.lean ====
section
/-! DEFINITION. The Engine's step (R241) and whose turn it is (R246, R292). -/

namespace Sys2Proof.Machine

/-- The Engine's step `complete()` (R241): decode PEND and run the command's rule, or complete an illegal word (R243).
With no command in flight the step is not enabled, and a turn given to the Engine passes (log entry 6). -/
def engineStep (s : State) : Host.Outcome State Fault Refusal :=
  match s.pend with
  | none => .next s
  | some cmd =>
    match decode cmd with
    | .illegal _ => completeIllegal s
    | .command i => exec i s

/-- Whose turn it is: the next turn fixed, else the Engine's while a command is in flight, else the Host's.
So the Engine's turn always comes, which is the weak fairness of R244 (log entry 5). -/
def State.nextTurn (s : State) : Turn :=
  match s.schedule with
  | t :: _ => t
  | [] => if s.busy then .engine else .host

/-- The state with the turn used up. -/
def State.spendTurn (s : State) : State := { s with schedule := s.schedule.tail }

/-- The step of the agent whose turn it is (R246), or the reset event (R292). -/
def takeTurn (s : State) : Turn → Host.Outcome State Fault Refusal
  | .host => hostStep s
  | .engine => engineStep s
  | .reset => .next s.resetEvent

/-- Put a command word in flight as an accepted CMD write does (R240), with the Engine's turn next. -/
def State.placeCommand (s : State) (cmd : Word) : State :=
  { s.accept cmd with schedule := .engine :: s.schedule }

end Sys2Proof.Machine
end

