-- ==== Sys2Proof/Machine/Step.lean ====
section
/-! DEFINITION. One step of the system (R246, R292), and how a command word is placed for the next step. -/

namespace Sys2Proof.Machine

/-- One step: of the Host, of the Engine, or a reset event, as the turn says (R246, R292). -/
def step (s : State) : Host.Outcome State Fault Refusal := takeTurn s.spendTurn s.nextTurn

/-- `s` with a command word of `nbits` bits accepted and the Engine's turn next, so that the next step runs exactly it.
The core fetches nothing (R20): this stands for the Host's CMD write and the Engine's turn after it (log entry 15). -/
def State.withFetchWord (s : State) (nbits w : Nat) : State := s.placeCommand (BitVec.ofNat 32 (w % 2 ^ nbits))

end Sys2Proof.Machine
end

