-- ==== Sys2Proof/Safety.lean ====
section
/-! DEFINITION. The terms claims use: the invariant of the core, what a command may end with, what a message command
leaves, command sequences, and which host programs are free of bus errors. -/

namespace Sys2Proof.Machine

/-! ### The invariant -/

/-- MAX_BLOCKS is in its legal range (R10). -/
abbrev State.CapacityLegal (s : State) : Prop := Config.minBlocks ≤ s.maxBlocks ∧ s.maxBlocks ≤ Config.maxBlocksLimit

/-- KEY_VALID = 0 exactly when NR = 0, and NR is otherwise 10, 12 or 14 (R24). -/
abbrev State.KeyStatusLegal (s : State) : Prop :=
  (s.keyValid = false ∧ s.nr = 0) ∨ (s.keyValid = true ∧ (s.nr = 10 ∨ s.nr = 12 ∨ s.nr = 14))

/-- IN and OUT are in canonical form (R32, R33). -/
abbrev State.BuffersCanonical (s : State) : Prop :=
  Memory.wf s.capacity s.inBuf = true ∧ Memory.wf s.capacity s.outBuf = true

/-- OUT_LEN is at most 16·MAX_BLOCKS (R16). -/
abbrev State.ResultFits (s : State) : Prop := s.outLen.toNat ≤ s.capacity

/-- The invariant that reset establishes and every step keeps. -/
abbrev State.Inv (s : State) : Prop :=
  s.CapacityLegal ∧ s.KeyStatusLegal ∧ s.BuffersCanonical ∧ s.ResultFits

/-- KEY_VALID = 1 only while RK holds the expanded key of some key, NR being its round count, and zero beyond it; and
RK is all zero while KEY_VALID = 0 (R24, R31). -/
def State.HoldsExpandedKey (s : State) : Prop :=
  if s.keyValid then
    ∃ key : List Byte, roundsForKey key.length = some s.rounds ∧ s.rk = roundKeyStore (keyExpansion key s.rounds)
  else s.rk = Vector.replicate 240 0

/-! ### What commands leave -/

/-- The codes a command can end with (R261). -/
def possibleCodes : Instr → List ErrorCode
  | .nop => [.noError]
  | .keyExpand => [.noError, .invalidKeySize]
  | .blockEnc => [.noError, .keyNotReady]
  | .blockDec => [.noError, .keyNotReady]
  | .cbcEnc => [.noError, .keyNotReady, .lengthOverflow]
  | .cbcDec => [.noError, .invalidCiphertextLength, .paddingValidation, .keyNotReady, .lengthOverflow]
  | .pad => [.noError, .lengthOverflow]
  | .unpad => [.noError, .paddingValidation, .lengthOverflow]
  | .gfMul => [.noError]
  | .keyClear => [.noError]
  | .subBytes => [.noError]
  | .invSubBytes => [.noError]
  | .shiftRows => [.noError]
  | .invShiftRows => [.noError]
  | .mixColumns => [.noError]
  | .invMixColumns => [.noError]
  | .addRoundKey _ => [.noError, .keyNotReady, .invalidRound]

/-- `t` is `s` after a command that completed with code `e`, wrote `bs` to OUT from byte 0 and `len` to OUT_LEN, and
changed nothing else: every other byte of OUT reads as before (R203, R204, R222, R223, R241). -/
def WroteResult (s t : State) (bs : List Byte) (len : Nat) (e : ErrorCode) : Prop :=
  t = { s with outBuf := t.outBuf, outLen := t.outLen, err := e, pend := none } ∧
  t.outLen.toNat = len ∧
  (∀ a, a < bs.length → t.outByte a = bs.getD a 0) ∧
  (∀ a, bs.length ≤ a → t.outByte a = s.outByte a)

/-- `t` is `s` after a command that completed with code `e` and changed no operand and no result (R241, R262). -/
abbrev CompletedOnly (s t : State) (e : ErrorCode) : Prop := t = { s with err := e, pend := none }

/-- `t` is `s` after a message command that completed with code `e` and no result (R262). -/
abbrev CompletedWithoutResult (s t : State) (e : ErrorCode) : Prop :=
  t = { s with outLen := 0, err := e, pend := none }

/-! ### Command sequences -/

/-- Commands completed one after another, each in the state the one before left (R245). -/
def execAll : List Instr → State → Host.Outcome State Fault Refusal
  | [], s => .next s
  | i :: is, s =>
    match exec i s with
    | .next t => execAll is t
    | .fault r => .fault r
    | .refused r => .refused r

/-- The single-step commands in the order of R169, with RND = 0..nr (R188). -/
def stepwiseEncrypt (nr : Nat) : List Instr :=
  [.addRoundKey 0]
    ++ (List.range' 1 (nr - 1)).flatMap (fun r => [.subBytes, .shiftRows, .mixColumns, .addRoundKey r])
    ++ [.subBytes, .shiftRows, .addRoundKey nr]

/-- The single-step commands in the order of R170, with RND = nr down to 0 (R188). -/
def stepwiseDecrypt (nr : Nat) : List Instr :=
  [.addRoundKey nr]
    ++ (List.range' 1 (nr - 1)).reverse.flatMap (fun r => [.invShiftRows, .invSubBytes, .addRoundKey r, .invMixColumns])
    ++ [.invShiftRows, .invSubBytes, .addRoundKey 0]

/-! ### Host programs free of bus errors -/

/-- No access of a line gets a bus error in a build of `maxBlocks` (R56): a read or write is aligned, of size 4 and to a
mapped address; the words of OUT that a result read goes on to are mapped in every build up to the limit of R10. -/
def HostOp.admissible (maxBlocks : Nat) : HostOp → Bool
  | .write a size _ => a.toNat % 4 == 0 && size == 4 && (busTarget maxBlocks a).isSome
  | .read a size _ => a.toNat % 4 == 0 && size == 4 && (busTarget maxBlocks a).isSome
  | .wait => true
  | .check => true
  | .onSuccess _ => true
  | .readResult => decide (maxBlocks ≤ Config.maxBlocksLimit)

/-- A safe state: no line left to the Host gets a bus error. -/
abbrev State.ProgramAdmissible (s : State) : Prop := s.program.all (HostOp.admissible s.maxBlocks) = true

end Sys2Proof.Machine
end

