-- ==== Sys2Proof/Certificates/Slice0/Obligations.lean ====
section
/-! DEFINITION. The statements made of the model, each from the numbered rules of spec/ its docstring names. -/

open Sys2Proof Sys2Proof.Machine

/-! ### Command words (30_encoding.md) -/

/-- R83, R84: decoding the word of a well-formed command gives that command, the round index at every value it can
have. -/
def Obligations.DecodeOfEncodeIsTheCommand : Prop :=
  ∀ i : Instr, i.wellFormed = true → decode (encode i) = .command i

/-- R83, R85: a word that decodes is the word of the command it decodes to, and that command is well formed. -/
def Obligations.DecodedWordsAreEncodings : Prop :=
  ∀ (w : Word) (i : Instr), decode w = .command i → i.wellFormed = true ∧ encode i = w

/-- R84: match and mask decide the command of a word; no word matches two rows. -/
def Obligations.MatchAndMaskDecideTheCommand : Prop :=
  (∀ (w : Word) (i : Instr), (∀ r, i ≠ .addRoundKey r) →
    (decode w = .command i ↔ w &&& 0xFFFFFFFF = (opcodeOf i).zeroExtend 32)) ∧
  (∀ (w : Word) (r : Nat),
    decode w = .command (.addRoundKey r) ↔ w &&& 0xFFFFF0FF = 0x00000016 ∧ r = (w.extractLsb' 8 4).toNat) ∧
  (∀ (w : Word) (i j : Instr),
    w &&& maskOf i = matchOf i → w &&& maskOf j = matchOf j → opcodeOf i = opcodeOf j) ∧
  encode (.addRoundKey 10) = 0x00000A16

/-- R85: which words are illegal, and that one in flight completes with ERR = 4 and no other effect. -/
def Obligations.IllegalWordsAreExactlyThese : Prop :=
  (∀ w : Word, (∃ why, decode w = .illegal why) ↔
    w.extractLsb' 12 20 ≠ 0 ∨ w.extractLsb' 6 2 ≠ 0 ∨
    (0x0A ≤ (w.extractLsb' 0 6).toNat ∧ (w.extractLsb' 0 6).toNat ≤ 0x0F) ∨ 0x17 ≤ (w.extractLsb' 0 6).toNat ∨
    (w.extractLsb' 8 4 ≠ 0 ∧ w.extractLsb' 0 6 ≠ 0x16)) ∧
  (∀ (s : State) (w : Word), s.pend = none → (∃ why, decode w = .illegal why) →
    busWrite s regCmd 4 w = ⟨false, 0, { s with pend := some w, err := .noError, wdrop := false }⟩ ∧
    engineStep (busWrite s regCmd 4 w).state = .next { s with err := .illegalCommand, wdrop := false })

/-- R82, R84, R243: words written out from the encoding, at least one for each family. -/
def Obligations.SampleWordsDecode : Prop :=
  decode 0x00000000 = .command .nop ∧ decode 0x00000001 = .command .keyExpand ∧
  decode 0x00000002 = .command .blockEnc ∧ decode 0x00000005 = .command .cbcDec ∧
  decode 0x00000006 = .command .pad ∧ decode 0x00000008 = .command .gfMul ∧
  decode 0x00000014 = .command .mixColumns ∧ decode 0x00000A16 = .command (.addRoundKey 10) ∧
  decode 0x00000100 = .illegal .roundNotAllowed ∧ decode 0x00000017 = .illegal .unassignedOp ∧
  decode 0x00000040 = .illegal .reservedBits ∧ decode 0x80000002 = .illegal .reservedBits

/-- R83, R241, R246: when the Engine moves and the word in flight decodes, the step is exec of that command, on the
state with the turn used up; and a placed word runs on the very next step. Whose turn it is, and how a word is placed,
are the model's choices (log entries 5 and 15). -/
def Obligations.StepRunsTheCommandInFlight : Prop :=
  (∀ (s : State) (w : Word) (i : Instr), s.pend = some w → decode w = .command i →
    (s.schedule = [] ∨ s.schedule.head? = some .engine) →
    step s = exec i { s with schedule := s.schedule.tail }) ∧
  (∀ (s : State) (w : Nat) (i : Instr), decodeTableWord 32 w = some i →
    step (s.withFetchWord 32 w) =
      exec i { s with pend := some (BitVec.ofNat 32 w), err := .noError, wdrop := false })

/-! ### Results of the commands (40_gf_tables.md to 45_control.md) -/

/-- R242: NOP completes with no other effect; issued while idle it clears ERR and WDROP and touches nothing else. -/
def Obligations.NopClearsErrorAndDropOnly : Prop :=
  (∀ s : State, exec .nop s = .next { s with err := .noError, pend := none }) ∧
  (∀ s : State, s.pend = none →
    engineStep (busWrite s regCmd 4 0x00000000).state = .next { s with err := .noError, wdrop := false })

/-- R108: GF_MUL (word 0x00000008) writes the product of A and B to P and nothing else; zero, one, the reduction and
the example. -/
def Obligations.GfMulWritesTheProduct : Prop :=
  decode 0x00000008 = .command .gfMul ∧
  (∀ s : State, exec .gfMul s = .next { s with gfP := gmul s.gfA s.gfB, err := .noError, pend := none }) ∧
  (∀ a : Byte, gmul a 0 = 0 ∧ gmul 0 a = 0 ∧ gmul a 1 = a) ∧
  gmul 0x80 0x02 = 0x1B ∧ gmul 0xFF 0xFF = 0x13 ∧ gmul 0x57 0x83 = 0xC1 ∧
  (∀ s : State, (s.readTarget .gfRes).extractLsb' 8 24 = 0)

/-- R136: KEY_EXPAND (word 0x00000001) with a legal length stores the expanded key, zero beyond it; with any other it
drops the key and ends with code 1. -/
def Obligations.KeyExpandStoresOrDropsTheKey : Prop :=
  decode 0x00000001 = .command .keyExpand ∧
  (∀ (s : State) (n nr : Nat), s.keyLen.toNat = n → (n = 16 ∧ nr = 10 ∨ n = 24 ∧ nr = 12 ∨ n = 32 ∧ nr = 14) →
    ∃ rk : Vector Byte 240,
      exec .keyExpand s = .next { s with
        rk := rk, nr := BitVec.ofNat 4 nr, keyValid := true, err := .noError, pend := none } ∧
      ∀ (j : Nat) (h : j < 240), rk[j] =
        if j < 16 * (nr + 1) then (keyExpansion (s.key.toList.take n) nr).getD j 0 else 0) ∧
  (∀ s : State, s.keyLen.toNat ≠ 16 → s.keyLen.toNat ≠ 24 → s.keyLen.toNat ≠ 32 →
    exec .keyExpand s = .next { s with
      rk := Vector.replicate 240 0, keyValid := false, nr := 0, err := .invalidKeySize, pend := none })

/-- R137: KEY_CLEAR (word 0x00000009) zeroes KEY, RK, KEY_VALID and NR, and nothing else (KEYLEN stays). -/
def Obligations.KeyClearErasesTheKey : Prop :=
  decode 0x00000009 = .command .keyClear ∧
  ∀ s : State, exec .keyClear s = .next { s with
    key := Vector.replicate 32 0, rk := Vector.replicate 240 0, keyValid := false, nr := 0,
    err := .noError, pend := none }

/-- R180, R181: with a key, BLOCK_ENC and BLOCK_DEC (words 2 and 3) replace DATA by its transform under RK and NR;
without, code 5. -/
def Obligations.BlockCommandsTransformData : Prop :=
  decode 0x00000002 = .command .blockEnc ∧ decode 0x00000003 = .command .blockDec ∧
  ∀ s : State,
    (s.keyValid = true →
      exec .blockEnc s = .next { s with data := encrypt s.rk s.nr.toNat s.data, err := .noError, pend := none } ∧
      exec .blockDec s = .next { s with data := decrypt s.rk s.nr.toNat s.data, err := .noError, pend := none }) ∧
    (s.keyValid = false →
      exec .blockEnc s = .next { s with err := .keyNotReady, pend := none } ∧
      exec .blockDec s = .next { s with err := .keyNotReady, pend := none })

/-- R182, R183: SUB_BYTES and INV_SUB_BYTES (words 0x10 and 0x11) look every byte of DATA up, need no key, and undo
each other; no byte is a fixed point of S. -/
def Obligations.SubBytesCommandsLookUpEveryByte : Prop :=
  decode 0x00000010 = .command .subBytes ∧ decode 0x00000011 = .command .invSubBytes ∧
  (∀ s : State,
    exec .subBytes s = .next { s with data := s.data.map sbox, err := .noError, pend := none } ∧
    exec .invSubBytes s = .next { s with data := s.data.map invSbox, err := .noError, pend := none }) ∧
  (∀ d : Block, (d.map sbox).map invSbox = d) ∧
  (Vector.replicate 16 (0x00 : Byte)).map sbox = Vector.replicate 16 0x63 ∧
  (∀ x : Byte, sbox x ≠ x)

/-- R184, R185: SHIFT_ROWS and INV_SHIFT_ROWS (words 0x12 and 0x13) permute the bytes of DATA by the lists `p` and `q`
of R164 and R165; bytes 0, 4, 8 and 12 stay; the second undoes the first, and four of the first restore DATA. -/
def Obligations.ShiftRowsCommandsPermuteData : Prop :=
  let p : Vector (Fin 16) 16 := #v[0, 5, 10, 15, 4, 9, 14, 3, 8, 13, 2, 7, 12, 1, 6, 11]
  let q : Vector (Fin 16) 16 := #v[0, 13, 10, 7, 4, 1, 14, 11, 8, 5, 2, 15, 12, 9, 6, 3]
  decode 0x00000012 = .command .shiftRows ∧ decode 0x00000013 = .command .invShiftRows ∧
  (∀ s : State,
    exec .shiftRows s = .next { s with data := p.map (fun j => s.data[j]), err := .noError, pend := none } ∧
    exec .invShiftRows s = .next { s with data := q.map (fun j => s.data[j]), err := .noError, pend := none } ∧
    execAll [.shiftRows, .invShiftRows] s = .next { s with err := .noError, pend := none } ∧
    execAll [.shiftRows, .shiftRows, .shiftRows, .shiftRows] s = .next { s with err := .noError, pend := none }) ∧
  (∀ j ∈ [(0 : Fin 16), 4, 8, 12], p[j] = j ∧ q[j] = j)

/-- R186, R187: MIX_COLUMNS and INV_MIX_COLUMNS (words 0x14 and 0x15) multiply each column of DATA by the matrices of
R166 and R167, need no key, and the second undoes the first; a column of four equal bytes is unchanged by both. -/
def Obligations.MixColumnsCommandsMultiplyColumns : Prop :=
  let column (m0 m1 m2 m3 : Byte) (d : Block) (c : Fin 4) : Byte :=
    gmul m0 d[4 * c.val] ^^^ gmul m1 d[4 * c.val + 1] ^^^ gmul m2 d[4 * c.val + 2] ^^^ gmul m3 d[4 * c.val + 3]
  decode 0x00000014 = .command .mixColumns ∧ decode 0x00000015 = .command .invMixColumns ∧
  (∀ s : State, ∃ d d' : Block,
    exec .mixColumns s = .next { s with data := d, err := .noError, pend := none } ∧
    exec .invMixColumns s = .next { s with data := d', err := .noError, pend := none } ∧
    ∀ c : Fin 4,
      d[4 * c.val] = column 2 3 1 1 s.data c ∧ d[4 * c.val + 1] = column 1 2 3 1 s.data c ∧
      d[4 * c.val + 2] = column 1 1 2 3 s.data c ∧ d[4 * c.val + 3] = column 3 1 1 2 s.data c ∧
      d'[4 * c.val] = column 14 11 13 9 s.data c ∧ d'[4 * c.val + 1] = column 9 14 11 13 s.data c ∧
      d'[4 * c.val + 2] = column 13 9 14 11 s.data c ∧ d'[4 * c.val + 3] = column 11 13 9 14 s.data c) ∧
  (∀ s : State, execAll [.mixColumns, .invMixColumns] s = .next { s with err := .noError, pend := none }) ∧
  (∀ v : Byte,
    gmul 2 v ^^^ gmul 3 v ^^^ gmul 1 v ^^^ gmul 1 v = v ∧ gmul 14 v ^^^ gmul 11 v ^^^ gmul 13 v ^^^ gmul 9 v = v)

/-- R188: ADD_ROUND_KEY (word 0x16 with RND in bits 11:8) XORs round key RND into DATA when there is a key and RND ≤
NR; with no key it ends with code 5, and with RND > NR with code 7; twice with one RND it restores DATA. With RND ≤ NR
= 15, which no run reaches, RK beyond byte 239 is 0 by the model's choice (log entry 13). -/
def Obligations.AddRoundKeyXorsTheRoundKey : Prop :=
  (∀ rnd : Fin 16, decode (0x00000016 ||| BitVec.ofNat 32 rnd.val <<< 8) = .command (.addRoundKey rnd.val)) ∧
  ∀ (s : State) (rnd : Nat),
    (s.keyValid = true → rnd ≤ s.nr.toNat →
      exec (.addRoundKey rnd) s = .next { s with
        data := Vector.ofFn fun j : Fin 16 => s.data[j] ^^^ s.rk.getD (16 * rnd + j.val) 0,
        err := .noError, pend := none } ∧
      execAll [.addRoundKey rnd, .addRoundKey rnd] s = .next { s with err := .noError, pend := none }) ∧
    (s.keyValid = false → exec (.addRoundKey rnd) s = .next { s with err := .keyNotReady, pend := none }) ∧
    (s.keyValid = true → s.nr.toNat < rnd →
      exec (.addRoundKey rnd) s = .next { s with err := .invalidRound, pend := none })

/-- R203: PAD (word 6) writes the message and N copies of N to OUT from byte 0, N being 16 less the length modulo 16,
and leaves every other byte of OUT; a message above 16·MAX_BLOCKS − 1 ends with code 6. Holds in every legal build
(R10). -/
def Obligations.PadWritesThePaddedMessage : Prop :=
  decode 0x00000006 = .command .pad ∧
  ∀ s : State, s.CapacityLegal →
    let n := s.inLen.toNat
    (n ≤ 16 * s.maxBlocks - 1 →
      ∃ t, exec .pad s = .next t ∧
        WroteResult s t (s.message ++ List.replicate (16 - n % 16) (BitVec.ofNat 8 (16 - n % 16)))
          (n + (16 - n % 16)) .noError) ∧
    (16 * s.maxBlocks - 1 < n → exec .pad s = .next { s with outLen := 0, err := .lengthOverflow, pend := none })

/-- R204: UNPAD (word 7) copies the message to OUT and sets OUT_LEN to its length less the valid count; a message
above 16·MAX_BLOCKS ends with code 6, and one with invalid padding with code 3, OUT not written. -/
def Obligations.UnpadStripsValidPadding : Prop :=
  decode 0x00000007 = .command .unpad ∧
  ∀ s : State, s.CapacityLegal →
    let n := s.inLen.toNat
    (∀ p, n ≤ 16 * s.maxBlocks → unpadCheck s.message = some p →
      ∃ t, exec .unpad s = .next t ∧ WroteResult s t s.message (n - p) .noError) ∧
    (n ≤ 16 * s.maxBlocks → unpadCheck s.message = none →
      exec .unpad s = .next { s with outLen := 0, err := .paddingValidation, pend := none }) ∧
    (16 * s.maxBlocks < n → exec .unpad s = .next { s with outLen := 0, err := .lengthOverflow, pend := none })

/-- R222: CBC_ENC (word 4) writes the CBC encryption of the padded message to OUT, n + (16 − n mod 16) bytes; with no
key it ends with code 5, else with code 6 when the padded message does not fit. R220, R224: that encryption is 16·(len
div 16 + 1) bytes long, its block j is the encryption of padded block j XOR the ciphertext block before, or IV for j =
0, and with a zero IV its first block is the encryption of the first message block. -/
def Obligations.CbcEncWritesTheCiphertext : Prop :=
  decode 0x00000004 = .command .cbcEnc ∧
  (∀ (rk : Vector Byte 240) (nr : Nat) (iv : Block) (m : List Byte),
    let C := cbcEncrypt rk nr iv m
    C.length = 16 * (m.length / 16 + 1) ∧
    (∀ (j : Nat) (k : Fin 16), j < m.length / 16 + 1 →
      C.getD (16 * j + k.val) 0 = (encrypt rk nr (Vector.ofFn fun b : Fin 16 =>
        (padBytes m).getD (16 * j + b.val) 0 ^^^ if j = 0 then iv[b] else C.getD (16 * (j - 1) + b.val) 0))[k]) ∧
    (iv = Vector.replicate 16 0 → 16 ≤ m.length → ∀ k : Fin 16,
      C.getD k.val 0 = (encrypt rk nr (Vector.ofFn fun b : Fin 16 => m.getD b.val 0))[k])) ∧
  ∀ s : State, s.CapacityLegal →
    let n := s.inLen.toNat
    (s.keyValid = true → n ≤ 16 * s.maxBlocks - 1 →
      ∃ t, exec .cbcEnc s = .next t ∧
        (cbcEncrypt s.rk s.nr.toNat s.iv s.message).length = n + (16 - n % 16) ∧
        WroteResult s t (cbcEncrypt s.rk s.nr.toNat s.iv s.message) (n + (16 - n % 16)) .noError) ∧
    (s.keyValid = false → exec .cbcEnc s = .next { s with outLen := 0, err := .keyNotReady, pend := none }) ∧
    (s.keyValid = true → 16 * s.maxBlocks - 1 < n →
      exec .cbcEnc s = .next { s with outLen := 0, err := .lengthOverflow, pend := none })

/-- R223: CBC_DEC (word 5) writes the raw decryption to OUT and sets OUT_LEN to n less the valid count; its errors
come in the order 5, 2, 6, 3, and on code 3 the n bytes of OUT are zero. R221: the raw decryption of whole blocks is
as long as they are, and its block j is the decryption of ciphertext block j XOR the ciphertext block before, or IV
for j = 0. -/
def Obligations.CbcDecWritesThePlaintext : Prop :=
  decode 0x00000005 = .command .cbcDec ∧
  (∀ (rk : Vector Byte 240) (nr : Nat) (iv : Block) (c : List Byte),
    let X := cbcDecryptRaw rk nr iv c
    (c.length % 16 = 0 → X.length = c.length) ∧
    (∀ (j : Nat) (k : Fin 16), j < c.length / 16 →
      X.getD (16 * j + k.val) 0 = (decrypt rk nr (Vector.ofFn fun b : Fin 16 => c.getD (16 * j + b.val) 0))[k] ^^^
        if j = 0 then iv[k] else c.getD (16 * (j - 1) + k.val) 0)) ∧
  ∀ s : State, s.CapacityLegal →
    let n := s.inLen.toNat
    let X := cbcDecryptRaw s.rk s.nr.toNat s.iv s.message
    (∀ p, s.keyValid = true → n ≠ 0 → n % 16 = 0 → n ≤ 16 * s.maxBlocks → unpadCheck X = some p →
      ∃ t, exec .cbcDec s = .next t ∧ X.length = n ∧ WroteResult s t X (n - p) .noError) ∧
    (s.keyValid = false → exec .cbcDec s = .next { s with outLen := 0, err := .keyNotReady, pend := none }) ∧
    (s.keyValid = true → (n = 0 ∨ n % 16 ≠ 0) →
      exec .cbcDec s = .next { s with outLen := 0, err := .invalidCiphertextLength, pend := none }) ∧
    (s.keyValid = true → n % 16 = 0 → 16 * s.maxBlocks < n →
      exec .cbcDec s = .next { s with outLen := 0, err := .lengthOverflow, pend := none }) ∧
    (s.keyValid = true → n ≠ 0 → n % 16 = 0 → n ≤ 16 * s.maxBlocks → unpadCheck X = none →
      ∃ t, exec .cbcDec s = .next t ∧ WroteResult s t (List.replicate n 0) 0 .paddingValidation)

/-! ### Rules over all commands (10_state.md, 60_exceptions.md) -/

/-- R241, R244, R267: every command completes in every state, and leaves no command in flight. -/
def Obligations.EveryCommandCompletes : Prop :=
  ∀ (i : Instr) (s : State), ∃ t, exec i s = .next t ∧ t.pend = none

/-- R261: a command ends only with the codes of its row. -/
def Obligations.CommandsEndOnlyWithTheirCodes : Prop :=
  (∀ (i : Instr) (s t : State), exec i s = .next t → t.err ∈ possibleCodes i) ∧
  (∀ (s t : State) (w : Word) (why : IllegalReason), s.pend = some w → decode w = .illegal why →
    engineStep s = .next t → t.err = .illegalCommand)

/-- R25, R26, R27, R29, R32, R34, R37: no command writes IV, IN, IN_LEN, KEYLEN, GF_OPS, CAPS or WDROP, nor anything
of the Host's or the platform's. -/
def Obligations.CommandsLeaveTheirInputs : Prop :=
  ∀ (i : Instr) (s t : State), exec i s = .next t →
    t.iv = s.iv ∧ t.inBuf = s.inBuf ∧ (∀ a, t.inByte a = s.inByte a) ∧ t.inLen = s.inLen ∧ t.keyLen = s.keyLen ∧
    t.gfA = s.gfA ∧ t.gfB = s.gfB ∧ t.maxBlocks = s.maxBlocks ∧ t.wdrop = s.wdrop ∧
    t.program = s.program ∧ t.reads = s.reads ∧ t.schedule = s.schedule ∧ t.resets = s.resets ∧ t.draws = s.draws

/-- R28, R30, R31, R33, R34, R81: which commands write KEY, RK with KEY_VALID and NR, DATA, P, and OUT with OUT_LEN;
every other command leaves them, and leaves every byte of OUT reading as before. -/
def Obligations.EachRegisterHasItsWriters : Prop :=
  ∀ (i : Instr) (s t : State), exec i s = .next t →
    (i ≠ .keyClear → t.key = s.key) ∧
    (i ≠ .keyClear → i ≠ .keyExpand → t.rk = s.rk ∧ t.keyValid = s.keyValid ∧ t.nr = s.nr) ∧
    (i ≠ .gfMul → t.gfP = s.gfP) ∧
    (i ≠ .pad → i ≠ .unpad → i ≠ .cbcEnc → i ≠ .cbcDec →
      t.outLen = s.outLen ∧ t.outBuf = s.outBuf ∧ ∀ a, t.outByte a = s.outByte a) ∧
    ((i = .nop ∨ i = .keyExpand ∨ i = .cbcEnc ∨ i = .cbcDec ∨ i = .pad ∨ i = .unpad ∨ i = .gfMul ∨ i = .keyClear) →
      t.data = s.data)

/-- R262: what a command that ends with an error has changed, besides ERR and BUSY. -/
def Obligations.ErrorsChangeOnlyWhatTheirRowSays : Prop :=
  (∀ (s t : State) (w : Word) (why : IllegalReason), s.pend = some w → decode w = .illegal why →
    engineStep s = .next t → CompletedOnly s t .illegalCommand) ∧
  ∀ (i : Instr) (s t : State), exec i s = .next t → t.err ≠ .noError →
    match i with
    | .keyExpand =>
      t = { s with rk := Vector.replicate 240 0, keyValid := false, nr := 0, err := .invalidKeySize, pend := none }
    | .pad => CompletedWithoutResult s t t.err
    | .unpad => CompletedWithoutResult s t t.err
    | .cbcEnc => CompletedWithoutResult s t t.err
    | .cbcDec =>
      (t.err ≠ .paddingValidation → CompletedWithoutResult s t t.err) ∧
      (t.err = .paddingValidation → WroteResult s t (List.replicate s.inLen.toNat 0) 0 .paddingValidation)
    | _ => CompletedOnly s t t.err

/-- R263: the code a command reports when several errors apply: an illegal word first, then no key, then the operand's
form, then the capacity, then the padding; and the only error of KEY_EXPAND, BLOCK_ENC and BLOCK_DEC. -/
def Obligations.ErrorsAreReportedInOrder : Prop :=
  (∀ (s t : State), exec .cbcDec s = .next t → t.err =
    if s.keyValid = false then .keyNotReady
    else if s.inLen.toNat = 0 ∨ s.inLen.toNat % 16 ≠ 0 then .invalidCiphertextLength
    else if 16 * s.maxBlocks < s.inLen.toNat then .lengthOverflow
    else if unpadCheck (cbcDecryptRaw s.rk s.nr.toNat s.iv s.message) = none then .paddingValidation
    else .noError) ∧
  (∀ (s t : State) (rnd : Nat), exec (.addRoundKey rnd) s = .next t → t.err =
    if s.keyValid = false then .keyNotReady else if s.nr.toNat < rnd then .invalidRound else .noError) ∧
  (∀ (s t : State), exec .cbcEnc s = .next t → t.err =
    if s.keyValid = false then .keyNotReady
    else if 16 * s.maxBlocks - 1 < s.inLen.toNat then .lengthOverflow else .noError) ∧
  (∀ (s t : State), exec .unpad s = .next t → t.err =
    if 16 * s.maxBlocks < s.inLen.toNat then .lengthOverflow
    else if unpadCheck s.message = none then .paddingValidation else .noError) ∧
  (∀ (s t : State), exec .pad s = .next t → t.err =
    if 16 * s.maxBlocks - 1 < s.inLen.toNat then .lengthOverflow else .noError) ∧
  (∀ (s t : State), exec .blockEnc s = .next t ∨ exec .blockDec s = .next t → t.err =
    if s.keyValid = false then .keyNotReady else .noError) ∧
  (∀ (s t : State), exec .keyExpand s = .next t → t.err =
    if s.keyLen = 16 ∨ s.keyLen = 24 ∨ s.keyLen = 32 then .noError else .invalidKeySize) ∧
  (∀ (s t : State) (w : Word), s.pend = some w → (∃ why, decode w = .illegal why) →
    engineStep s = .next t → t.err = .illegalCommand)

/-- R137, R271: after KEY_CLEAR nothing of the old key is left: two states that differ only in KEY, RK, KEY_VALID and
NR become the same state. -/
def Obligations.KeyClearForgetsTheKey : Prop :=
  ∀ s t : State,
    t = { s with key := t.key, rk := t.rk, keyValid := t.keyValid, nr := t.nr } → exec .keyClear s = exec .keyClear t

/-! ### The command protocol and the bus (20_memory.md, 45_control.md) -/

/-- R240: a CMD write while idle puts the word in flight and clears ERR and WDROP, and changes nothing else; a CMD
write while busy is dropped. -/
def Obligations.CommandWriteIsAcceptedWhenIdle : Prop :=
  ∀ (s : State) (v : Word),
    (s.pend = none →
      busWrite s regCmd 4 v = ⟨false, 0, { s with pend := some v, err := .noError, wdrop := false }⟩) ∧
    (s.pend ≠ none → busWrite s regCmd 4 v = ⟨false, 0, { s with wdrop := true }⟩)

/-- R60: while busy every write to a mapped aligned address is dropped and sets WDROP, which then stays until the next
accepted command or a reset. -/
def Obligations.WritesWhileBusyAreDropped : Prop :=
  (∀ (s : State) (a : BitVec 18) (v : Word), s.pend ≠ none → a.toNat % 4 = 0 → busTarget s.maxBlocks a ≠ none →
    busWrite s a 4 v = ⟨false, 0, { s with wdrop := true }⟩) ∧
  (∀ s t : State, s.wdrop = true → step s = .next t →
    t.wdrop = true ∨ s.nextTurn = .reset ∨ (s.pend = none ∧ t.pend ≠ none))

/-- R61: while busy STATUS, CAPS and CMD read exactly; a read of any other mapped address returns a free value, about
which nothing is known, and changes no state of the core; once idle, reads are exact again. The free value and the
draw counter that indexes it are the model's choice (log entry 4). -/
def Obligations.ReadsWhileBusyAreFree : Prop :=
  (∀ s : State,
    busRead s regStatus 4 = ⟨false, s.statusWord, s⟩ ∧ busRead s regCmd 4 = ⟨false, 0, s⟩ ∧
    busRead s regCaps 4 = ⟨false, BitVec.ofNat 32 s.maxBlocks, s⟩) ∧
  (∀ (s : State) (a : BitVec 18) (t : BusTarget), a.toNat % 4 = 0 → busTarget s.maxBlocks a = some t →
    (s.pend ≠ none → t ≠ .status → t ≠ .caps → t ≠ .cmd →
      busRead s a 4 = ⟨false, Config.busyRead s.draws, { s with draws := s.draws + 1 }⟩) ∧
    (s.pend = none → busRead s a 4 = ⟨false, s.readTarget t, s⟩))

/-- R56: a misaligned access, one that is not 32 bits wide, or one to an unmapped address gets an error response, the
read returning 0, and changes no state at all. -/
def Obligations.BusErrorsChangeNothing : Prop :=
  ∀ (s : State) (a : BitVec 18) (size : Nat) (v : Word),
    (a.toNat % 4 ≠ 0 ∨ size ≠ 4 ∨ busTarget s.maxBlocks a = none) →
    busRead s a size = ⟨true, 0, s⟩ ∧ busWrite s a size v = ⟨true, 0, s⟩

/-- R22, R51, R52, R53: in a legal build the registers and windows stand at the offsets of the map, a window's byte at
the address less its base, and the unmapped word addresses are exactly the holes of the map. -/
def Obligations.UnmappedAddressesAreTheHoles : Prop :=
  [regCmd, regStatus, regKeyLen, regInLen, regOutLen, regGfOps, regGfRes, regCaps] =
    [0x000, 0x004, 0x008, 0x00C, 0x010, 0x014, 0x018, 0x01C] ∧
  [baseKey, baseIv, baseData, baseRk, baseIn, baseOut] = [0x020, 0x040, 0x050, 0x100, 0x10000, 0x20000] ∧
  ∀ m : Nat, 626 ≤ m → m ≤ 4096 →
    [(0x000 : BitVec 18), 0x004, 0x008, 0x00C, 0x010, 0x014, 0x018, 0x01C].map (busTarget m) =
      [some .cmd, some .status, some .keyLen, some .inLen, some .outLen, some .gfOps, some .gfRes, some .caps] ∧
    ∀ a : BitVec 18,
      (0x020 ≤ a.toNat → a.toNat < 0x040 → busTarget m a = some (.key (a.toNat - 0x020))) ∧
      (0x040 ≤ a.toNat → a.toNat < 0x050 → busTarget m a = some (.iv (a.toNat - 0x040))) ∧
      (0x050 ≤ a.toNat → a.toNat < 0x060 → busTarget m a = some (.data (a.toNat - 0x050))) ∧
      (0x100 ≤ a.toNat → a.toNat < 0x1F0 → busTarget m a = some (.rk (a.toNat - 0x100))) ∧
      (0x10000 ≤ a.toNat → a.toNat < 0x10000 + 16 * m → busTarget m a = some (.input (a.toNat - 0x10000))) ∧
      (0x20000 ≤ a.toNat → a.toNat < 0x20000 + 16 * m → busTarget m a = some (.output (a.toNat - 0x20000))) ∧
      (a.toNat % 4 = 0 → (busTarget m a = none ↔
        (0x00060 ≤ a.toNat ∧ a.toNat ≤ 0x000FF) ∨ (0x001F0 ≤ a.toNat ∧ a.toNat ≤ 0x0FFFF) ∨
        (0x10000 + 16 * m ≤ a.toNat ∧ a.toNat ≤ 0x1FFFF) ∨ (0x20000 + 16 * m ≤ a.toNat ∧ a.toNat ≤ 0x3FFFF)))

/-- R25, R26, R34, R58: a write to KEYLEN, IN_LEN or GF_OPS while idle reads back with its reserved bits 0 and changes
nothing else. -/
def Obligations.RegistersReadBackWhatWasWritten : Prop :=
  ∀ (s : State) (v : Word), s.pend = none →
    (busWrite s regKeyLen 4 v = ⟨false, 0, { s with keyLen := v.extractLsb' 0 8 }⟩ ∧
      (busRead (busWrite s regKeyLen 4 v).state regKeyLen 4).value = v &&& 0x000000FF) ∧
    (busWrite s regInLen 4 v = ⟨false, 0, { s with inLen := v }⟩ ∧
      (busRead (busWrite s regInLen 4 v).state regInLen 4).value = v) ∧
    (busWrite s regGfOps 4 v = ⟨false, 0, { s with gfA := v.extractLsb' 0 8, gfB := v.extractLsb' 8 8 }⟩ ∧
      (busRead (busWrite s regGfOps 4 v).state regGfOps 4).value = v &&& 0x0000FFFF)

/-- R55, R58: a write to word `j` of KEY, IV or DATA while idle sets bytes 4j..4j+3 to the word's lanes, the lower
index in the less significant lane, leaves every other byte, and reads back. -/
def Obligations.WindowWritesAreLittleEndian : Prop :=
  ∀ (s : State) (v : Word), s.pend = none →
    (∀ j, j < 8 → ∃ x : Vector Byte 32,
      busWrite s (baseKey + BitVec.ofNat 18 (4 * j)) 4 v = ⟨false, 0, { s with key := x }⟩ ∧
      (∀ (i : Nat) (h : i < 32), x[i] =
        if 4 * j ≤ i ∧ i < 4 * j + 4 then v.extractLsb' (8 * (i - 4 * j)) 8 else s.key[i]) ∧
      (busRead { s with key := x } (baseKey + BitVec.ofNat 18 (4 * j)) 4).value = v) ∧
    (∀ j, j < 4 → ∃ x : Vector Byte 16,
      busWrite s (baseIv + BitVec.ofNat 18 (4 * j)) 4 v = ⟨false, 0, { s with iv := x }⟩ ∧
      (∀ (i : Nat) (h : i < 16), x[i] =
        if 4 * j ≤ i ∧ i < 4 * j + 4 then v.extractLsb' (8 * (i - 4 * j)) 8 else s.iv[i]) ∧
      (busRead { s with iv := x } (baseIv + BitVec.ofNat 18 (4 * j)) 4).value = v) ∧
    (∀ j, j < 4 → ∃ x : Vector Byte 16,
      busWrite s (baseData + BitVec.ofNat 18 (4 * j)) 4 v = ⟨false, 0, { s with data := x }⟩ ∧
      (∀ (i : Nat) (h : i < 16), x[i] =
        if 4 * j ≤ i ∧ i < 4 * j + 4 then v.extractLsb' (8 * (i - 4 * j)) 8 else s.data[i]) ∧
      (busRead { s with data := x } (baseData + BitVec.ofNat 18 (4 * j)) 4).value = v)

/-- R32, R55, R57, R58: in a legal build, a write to word `j` of IN while idle sets bytes 4j..4j+3 of IN, leaves every
other byte of IN and every byte of OUT reading as before, changes nothing else, and reads back. -/
def Obligations.InputBufferReadsBackWhatWasWritten : Prop :=
  ∀ (s : State) (v : Word) (j : Nat), s.CapacityLegal → s.pend = none → j < 4 * s.maxBlocks →
    ∃ t : State, busWrite s (baseIn + BitVec.ofNat 18 (4 * j)) 4 v = ⟨false, 0, t⟩ ∧
      t = { s with inBuf := t.inBuf } ∧
      (∀ a, t.inByte a =
        if 4 * j ≤ a ∧ a < 4 * j + 4 then v.extractLsb' (8 * (a - 4 * j)) 8 else s.inByte a) ∧
      (∀ a, t.outByte a = s.outByte a) ∧
      (busRead t (baseIn + BitVec.ofNat 18 (4 * j)) 4).value = v

/-- R26, R31, R33, R34, R55, R57: while idle, OUT_LEN reads its 32 bits and GF_RES the product, bits 31:8 zero; word
`j` of RK reads bytes RK[4j..4j+4), and in a legal build word `j` of OUT reads bytes OUT[4j..4j+4), the lower index in
the less significant lane. -/
def Obligations.ResultWindowsReadLittleEndian : Prop :=
  ∀ s : State, s.pend = none →
    (busRead s regOutLen 4).value = s.outLen ∧
    (busRead s regGfRes 4).value = s.gfP.zeroExtend 32 ∧
    ∀ j k : Nat, k < 4 →
      (j < 60 →
        (busRead s (baseRk + BitVec.ofNat 18 (4 * j)) 4).value.extractLsb' (8 * k) 8 = s.rk.getD (4 * j + k) 0) ∧
      (s.CapacityLegal → j < 4 * s.maxBlocks →
        (busRead s (baseOut + BitVec.ofNat 18 (4 * j)) 4).value.extractLsb' (8 * k) 8 = s.outByte (4 * j + k))

/-- R58: while idle a write to a read-only register or window is ignored without an error. -/
def Obligations.WritesToReadOnlyRegistersAreIgnored : Prop :=
  ∀ (s : State) (v : Word), s.pend = none →
    busWrite s regStatus 4 v = ⟨false, 0, s⟩ ∧ busWrite s regOutLen 4 v = ⟨false, 0, s⟩ ∧
    busWrite s regGfRes 4 v = ⟨false, 0, s⟩ ∧ busWrite s regCaps 4 v = ⟨false, 0, s⟩ ∧
    (∀ j, j < 60 → busWrite s (baseRk + BitVec.ofNat 18 (4 * j)) 4 v = ⟨false, 0, s⟩) ∧
    (s.CapacityLegal → ∀ j, j < 4 * s.maxBlocks →
      busWrite s (baseOut + BitVec.ofNat 18 (4 * j)) 4 v = ⟨false, 0, s⟩)

/-- R24, R260: where each flag stands in the STATUS word, that reserved bits read 0, and the number of each code. -/
def Obligations.StatusWordShowsTheFlags : Prop :=
  [errorBits .noError, errorBits .invalidKeySize, errorBits .invalidCiphertextLength, errorBits .paddingValidation,
    errorBits .illegalCommand, errorBits .keyNotReady, errorBits .lengthOverflow, errorBits .invalidRound] =
    [0, 1, 2, 3, 4, 5, 6, 7] ∧
  ∀ s : State,
    s.statusWord.getLsbD 0 = s.pend.isSome ∧ s.statusWord.getLsbD 1 = s.keyValid ∧
    s.statusWord.getLsbD 2 = s.wdrop ∧ s.statusWord.getLsbD 3 = false ∧
    s.statusWord.extractLsb' 4 4 = errorBits s.err ∧ s.statusWord.extractLsb' 8 4 = s.nr ∧
    s.statusWord.extractLsb' 12 20 = 0

/-- R67, R245: a Host step while a command is in flight leaves the command and everything it can read as they were:
only WDROP and the Host's own data can change. So the command completes as it would have at acceptance. -/
def Obligations.HostStepsLeaveACommandInFlight : Prop :=
  ∀ s t : State, s.pend ≠ none → hostStep s = .next t →
    t = { s with wdrop := t.wdrop, program := t.program, reads := t.reads, draws := t.draws }

/-- R88, R89: the access that each line of a host program stands for; a program is assembled line by line, and a round
index outside 0..15 is refused. R246: a step on the Host's turn is the Host's, whose next line does its access and is
used up: a write changes the state as the bus says (R58), a read's value is the line's result (R57), and an access the
bus refuses is a fault (R56). R90: WAIT stays the next line while BUSY = 1. R92: the program ends after its last line.
R91, R93: `check`, `onSuccess` and `readResult`. The turns (log entry 5), the Host's data (log entry 7), the stop at a
bus error (log entry 8), the passing of a turn (log entry 6), those three lines (log entry 17) and which reads are
recorded (log entry 18) are the model's choices. -/
def Obligations.HostLinesDoTheirBusSteps : Prop :=
  (∀ (a : BitVec 18) (v : Word), assembleLine (.wr a v) = some (.write a 4 v) ∧
    assembleLine (.rd a) = some (.read a 4 none) ∧ assembleLine (.rdEq a v) = some (.read a 4 (some v))) ∧
  (∀ i : Instr, assembleLine (.cmd i) = if i.wellFormed then some (.write 0x000 4 (encode i)) else none) ∧
  (∀ n : Nat, assembleLine .wait = some .wait ∧ assembleLine .check = some .check ∧
    assembleLine (.onSuccess n) = some (.onSuccess n) ∧ assembleLine .readResult = some .readResult) ∧
  (∀ (ls : List HostLine) (ops : List HostOp), assemble ls = some ops ↔ ls.map assembleLine = ops.map some) ∧
  (∀ (m n : Nat), (resultReads m n).length = min ((n + 3) / 4) (4 * m) ∧
    ∀ j, j < min ((n + 3) / 4) (4 * m) →
      (resultReads m n)[j]? = some (.read (baseOut + BitVec.ofNat 18 (4 * j)) 4 none)) ∧
  (∀ (s : State) (ts : List Turn), s.schedule = .host :: ts → step s = hostStep { s with schedule := ts }) ∧
  (∀ s : State, s.schedule = [] → s.pend = none → step s = hostStep s) ∧
  ∀ (s : State) (rest : List HostOp),
    (∀ (a : BitVec 18) (size : Nat) (v : Word), s.program = .write a size v :: rest →
      let r := busWrite s a size v
      hostStep s = if r.error then .fault (.busError a size) else .next { r.state with program := rest }) ∧
    (∀ (a : BitVec 18) (size : Nat) (x : Option Word), s.program = .read a size x :: rest →
      let r := busRead s a size
      hostStep s = if r.error then .fault (.busError a size)
        else .next { r.state with program := rest, reads := s.reads ++ [⟨a, r.value, x⟩] }) ∧
    (s.program = .wait :: rest →
      (s.pend ≠ none → hostStep s = .next s) ∧ (s.pend = none → hostStep s = .next { s with program := rest })) ∧
    (s.program = .check :: rest →
      hostStep s = .next { s with program := if s.err = .noError then rest else [] }) ∧
    (∀ n : Nat, s.program = .onSuccess n :: rest →
      hostStep s = .next { s with
        program := if s.err = .noError then rest else rest.drop n
        reads := s.reads ++ [⟨regStatus, s.statusWord, none⟩] }) ∧
    (s.program = .readResult :: rest →
      let r := busRead s regOutLen 4
      r.error = false ∧
      hostStep s = .next { r.state with
        program := resultReads s.maxBlocks r.value.toNat ++ rest
        reads := s.reads ++ [⟨regOutLen, r.value, none⟩] }) ∧
    (s.program = [] → hostStep s = .next s)

/-- R56, R246, R265: a step is never refused, and it stops exactly when it is the Host's turn and the Host's next line
is an access the bus refuses: one misaligned, not 32 bits wide, or unmapped; the fault names its address and size. That
the Host's step stops there is the model's reading (log entry 8). -/
def Obligations.ExactlyBusErrorsStopAStep : Prop :=
  ∀ s : State,
    (∀ r, step s ≠ .refused r) ∧
    (∀ r, step s = .fault r ↔ s.nextTurn = .host ∧
      ∃ (a : BitVec 18) (size : Nat) (rest : List HostOp), r = .busError a size ∧ s.admitted a size = none ∧
        ((∃ v, s.program = .write a size v :: rest) ∨ (∃ x, s.program = .read a size x :: rest))) ∧
    (∀ (a : BitVec 18) (size : Nat), s.admitted a size = none ↔
      a.toNat % 4 ≠ 0 ∨ size ≠ 4 ∨ busTarget s.maxBlocks a = none)

/-- R53, R56, R246: a system whose Host program makes no erroneous access always steps, and stays one. That a turn of
an agent with nothing to do passes, where R246 gives no step, is the model's choice (log entry 6). -/
def Obligations.AdmissibleProgramsNeverStop : Prop :=
  ∀ s : State, s.ProgramAdmissible → ∃ t, step s = .next t ∧ t.ProgramAdmissible

/-- R244: a command in flight completes, or is abandoned by a reset, after finitely many steps: at most one more than
the turns fixed, whatever the Host does without a bus error. That the turns fixed are a finite list, past which the
Engine moves, is the model's form of the spec's fairness (log entry 5), and that an idle turn passes is log entry 6.
-/
def Obligations.CommandsCompleteAfterFinitelyManySteps : Prop :=
  ∀ s : State, s.ProgramAdmissible →
    ∃ (k : Nat) (t : State), k ≤ s.schedule.length + 1 ∧ core.run k s = .next t ∧ t.pend = none

/-! ### Reset (70_reset_and_hazards.md) and the invariant -/

/-- R290: the values the spec gives for the state after reset; CMD reads 0, CAPS the capacity, and the next CMD write
is accepted. R291: every byte of IN and OUT is an unknown one; its form, the free value of its offset, is the model's
choice (log entries 2 and 3), and the capacity's own value is log entry 1 and is not stated. -/
def Obligations.ResetStateHasTheSpecifiedValues : Prop :=
  State.reset.statusWord = 0 ∧ State.reset.readTarget .cmd = 0 ∧
  State.reset.readTarget .caps = BitVec.ofNat 32 State.reset.maxBlocks ∧
  (∀ v, busWrite State.reset regCmd 4 v = ⟨false, 0, State.reset.accept v⟩) ∧
  State.reset.keyLen = 0 ∧ State.reset.inLen = 0 ∧ State.reset.outLen = 0 ∧
  State.reset.gfA = 0 ∧ State.reset.gfB = 0 ∧ State.reset.gfP = 0 ∧ State.reset.pend = none ∧
  State.reset.key = Vector.replicate 32 0 ∧ State.reset.iv = Vector.replicate 16 0 ∧
  State.reset.data = Vector.replicate 16 0 ∧ State.reset.rk = Vector.replicate 240 0 ∧
  ∀ a, State.reset.inByte a = Config.unwritten .input State.reset.resets a ∧
    State.reset.outByte a = Config.unwritten .output State.reset.resets a

/-- R290, R292: a reset event, at any time, sets every register and array of the core to its reset value and abandons
the command in flight; the capacity stays, and IN and OUT hold new unknown bytes. The turns, what a reset event keeps,
and the form of the unknown bytes are the model's choices (log entries 5, 12, 2 and 3). -/
def Obligations.ResetEventAbandonsTheCommand : Prop :=
  ∀ (s : State) (ts : List Turn), s.schedule = .reset :: ts →
    ∃ t, step s = .next t ∧ t.pend = none ∧ t.statusWord = 0 ∧ t.keyLen = 0 ∧ t.inLen = 0 ∧ t.outLen = 0 ∧
      t.gfA = 0 ∧ t.gfB = 0 ∧ t.gfP = 0 ∧ t.key = Vector.replicate 32 0 ∧ t.iv = Vector.replicate 16 0 ∧
      t.data = Vector.replicate 16 0 ∧ t.rk = Vector.replicate 240 0 ∧ t.maxBlocks = s.maxBlocks ∧
      ∀ a, t.inByte a = Config.unwritten .input (s.resets + 1) a ∧
        t.outByte a = Config.unwritten .output (s.resets + 1) a

/-- R291: a byte of IN or OUT that nothing has written keeps one value: over any step but a reset event, if it is
still unwritten it still reads the same. The free value it reads as is the model's choice (log entry 2). -/
def Obligations.UnwrittenBytesKeepTheirValue : Prop :=
  ∀ (s t : State) (b : Config.Buffer) (a : Nat), step s = .next t → s.nextTurn ≠ .reset →
    Memory.get (s.buffer b) a = none → Memory.get (t.buffer b) a = none → t.bufferByte b a = s.bufferByte b a

/-- R10, R16, R24, R32, R33, R290: the invariant holds after reset. That MAX_BLOCKS is legal there rests on the
model's choice of 1024 (log entry 1). -/
def Obligations.ResetMeetsTheInvariant : Prop := State.reset.Inv ∧ State.reset.HoldsExpandedKey

/-- R10, R16, R24, R27, R32, R33: every step keeps the invariant: MAX_BLOCKS legal, KEY_VALID = 0 exactly when NR = 0
and NR otherwise 10, 12 or 14, IN and OUT in canonical form, OUT_LEN within OUT. -/
def Obligations.EveryStepKeepsTheInvariant : Prop :=
  ∀ s t : State, s.Inv → step s = .next t → t.Inv ∧ t.maxBlocks = s.maxBlocks

/-- R24, R31, R297: every step keeps RK the expanded key of some key while KEY_VALID = 1, and zero while it is 0. -/
def Obligations.EveryStepKeepsTheExpandedKey : Prop :=
  ∀ s t : State, s.HoldsExpandedKey → step s = .next t → t.HoldsExpandedKey

/-! ### Laws of the algorithms (40_gf_tables.md to 44_cbc.md) -/

/-- R103: the laws of GF(2^8) multiplication. -/
def Obligations.GfMultiplicationIsAField : Prop :=
  (∀ a : Byte, gmul a 0 = 0 ∧ gmul 0 a = 0) ∧ (∀ a : Byte, gmul a 1 = a ∧ gmul 1 a = a) ∧
  (∀ a b : Byte, gmul a b = gmul b a) ∧ (∀ a b c : Byte, gmul a (b ^^^ c) = gmul a b ^^^ gmul a c) ∧
  (∀ a b c : Byte, gmul (gmul a b) c = gmul a (gmul b c)) ∧ (∀ a : Byte, a ≠ 0 → ∃! b, gmul a b = 1)

/-- R104, R105: the S-Box is the affine map of the field inverse, and the inverse S-Box undoes it both ways. -/
def Obligations.SboxIsAffineOfInverse : Prop :=
  let affine (b : Byte) : Byte :=
    b ^^^ b.rotateRight 4 ^^^ b.rotateRight 5 ^^^ b.rotateRight 6 ^^^ b.rotateRight 7 ^^^ 0x63
  sbox 0 = affine 0 ∧ (∀ x y : Byte, gmul x y = 1 → sbox x = affine y) ∧
  (∀ x : Byte, invSbox (sbox x) = x ∧ sbox (invSbox x) = x)

/-- R101, R106, R107: doubling is multiplication by 2; the round constants are its powers from 1, with period 51, and
the ten values the key schedule reads. -/
def Obligations.RoundConstantsAreDoublings : Prop :=
  (∀ a : Byte, gmul a 0x02 = xtime a) ∧ rcon 0 = 0x8D ∧ rcon 1 = 0x01 ∧
  (∀ n, 1 ≤ n → rcon (n + 1) = xtime (rcon n)) ∧ (∀ n, 1 ≤ n → rcon (n + 51) = rcon n) ∧
  (List.range' 1 10).map rcon = [0x01, 0x02, 0x04, 0x08, 0x10, 0x20, 0x40, 0x80, 0x1B, 0x36]

/-- R160, R161: the two views of a block: which byte is which entry, and that each view determines the other. -/
def Obligations.BlockAndStateViewsAgree : Prop :=
  (∀ (b : Block) (r c : Fin 4), (stateOf b)[r][c] = b[r.val + 4 * c.val]) ∧
  (∀ b : Block, blockOf (stateOf b) = b) ∧ (∀ m : StateMatrix, stateOf (blockOf m) = m)

/-- R163, R165, R167, R168: each inverse round operation undoes its forward operation, both ways round. -/
def Obligations.RoundOperationsAreInverted : Prop :=
  ∀ m : StateMatrix,
    invSubBytes (subBytes m) = m ∧ subBytes (invSubBytes m) = m ∧
    invShiftRows (shiftRows m) = m ∧ shiftRows (invShiftRows m) = m ∧
    invMixColumns (mixColumns m) = m ∧ mixColumns (invMixColumns m) = m ∧
    ∀ (rk : Vector Byte 240) (k : Nat), addRoundKey rk (addRoundKey rk m k) k = m

/-- R131, R132, R133, R134: the expanded key starts with the key, has 16·(Nr+1) bytes, and each later word is the
previous word, transformed at multiples of the key length (the Rcon counter being the multiple) and at 16 modulo 32
for 32-byte keys, XOR the word one key length earlier. The transformation at multiples rotates left by one byte, looks
each byte up in the S-Box, and XORs the round constant into the first byte; the other only looks up. -/
def Obligations.KeyExpansionFollowsTheRecurrence : Prop :=
  ∀ (key : List Byte) (nr : Nat), roundsForKey key.length = some nr →
    let n := key.length
    let W := keyExpansion key nr
    (∀ (i : Nat) (j : Fin 4), (keyWordAt W i)[j] = W.getD (i + j.val) 0) ∧
    (∀ (t u : KeyWord) (j : Fin 4), (xorKeyWord t u)[j] = t[j] ^^^ u[j]) ∧
    (∀ (it : Nat) (t : KeyWord), scheduleCore it t = #v[sbox t[1] ^^^ rcon it, sbox t[2], sbox t[3], sbox t[0]]) ∧
    (∀ t : KeyWord, subKeyWord t = #v[sbox t[0], sbox t[1], sbox t[2], sbox t[3]]) ∧
    W.length = 16 * (nr + 1) ∧ W.take n = key ∧
    ∀ i, n ≤ i → i < 16 * (nr + 1) → i % 4 = 0 →
      let t := keyWordAt W (i - 4)
      keyWordAt W i = xorKeyWord (if i % n = 0 then scheduleCore (i / n) t
        else if n = 32 ∧ i % 32 = 16 then subKeyWord t else t) (keyWordAt W (i - n))

/-- R171: decryption undoes encryption and encryption undoes decryption, for every expanded key of a legal key. -/
def Obligations.DecryptionInvertsEncryption : Prop :=
  ∀ (key : List Byte) (nr : Nat) (b : Block), roundsForKey key.length = some nr →
    let rk := roundKeyStore (keyExpansion key nr)
    decrypt rk nr (encrypt rk nr b) = b ∧ encrypt rk nr (decrypt rk nr b) = b

/-- R180, R181, R171: BLOCK_ENC then BLOCK_DEC, or the other way round, restores DATA, in every state with a key. -/
def Obligations.BlockCommandsUndoEachOther : Prop :=
  ∀ s : State, s.keyValid = true →
    execAll [.blockEnc, .blockDec] s = .next { s with err := .noError, pend := none } ∧
    execAll [.blockDec, .blockEnc] s = .next { s with err := .noError, pend := none }

/-- R169, R170, R188: the single-step commands in the order of the forward cipher do what BLOCK_ENC does, and in the
order of the inverse cipher what BLOCK_DEC does. -/
def Obligations.StepwiseRoundsEqualBlockCommands : Prop :=
  ∀ s : State, s.keyValid = true →
    execAll (stepwiseEncrypt s.nr.toNat) s = exec .blockEnc s ∧
    execAll (stepwiseDecrypt s.nr.toNat) s = exec .blockDec s

/-- R201: a claimed count is valid exactly when it is in 1..16, no more than the length, and the value of each of the
last bytes it counts. R205: padding then unpadding gives the message back, with the count the rule names, 1 to 16
bytes longer; a last byte 0x00 is never valid, and a last byte 0x01 always is. -/
def Obligations.UnpaddingInvertsPadding : Prop :=
  (∀ (X : List Byte) (p : Nat), unpadCheck X = some p ↔
    1 ≤ p ∧ p ≤ 16 ∧ p ≤ X.length ∧ ∀ b ∈ X.drop (X.length - p), b.toNat = p) ∧
  (∀ d : List Byte, unpadCheck (padBytes d) = some (16 - d.length % 16) ∧ unpadBytes (padBytes d) = some d ∧
    1 ≤ (padBytes d).length - d.length ∧ (padBytes d).length - d.length ≤ 16) ∧
  (∀ X : List Byte, X.getLast? = some 0x00 → unpadCheck X = none) ∧
  (∀ X : List Byte, X.getLast? = some 0x01 → unpadCheck X = some 1)

/-- R224: copying CBC_ENC's result to IN and running CBC_DEC with the same IV and key gives the message back, ERR = 0,
for every message that fits. -/
def Obligations.CbcDecryptionInvertsCbcEncryption : Prop :=
  ∀ s t u : State, s.CapacityLegal → s.keyValid = true → s.inLen.toNat ≤ 16 * s.maxBlocks - 1 →
    exec .cbcEnc s = .next t →
    u.keyValid = t.keyValid → u.rk = t.rk → u.nr = t.nr → u.iv = t.iv → u.maxBlocks = t.maxBlocks →
    u.inLen = t.outLen → (∀ a, a < t.outLen.toNat → u.inByte a = t.outByte a) →
    ∃ v, exec .cbcDec u = .next v ∧ v.err = .noError ∧ v.outLen = s.inLen ∧
      ∀ a, a < s.inLen.toNat → v.outByte a = s.inByte a

/-- R224: changing block `i` of a ciphertext by a mask, one bit or more, changes block `i` of the raw decryption,
changes block `i+1` by exactly that mask, and changes no other block. -/
def Obligations.CiphertextChangesStayLocal : Prop :=
  ∀ (rk : Vector Byte 240) (nr : Nat) (iv mask : Block) (c c' : List Byte) (i : Nat),
    c.length % 16 = 0 → c'.length = c.length → i < c.length / 16 → mask ≠ Vector.replicate 16 0 →
    (∀ j, j < c.length / 16 → blockAt c' j = if j = i then xorBlock (blockAt c j) mask else blockAt c j) →
    let X := cbcDecryptRaw rk nr iv c
    let X' := cbcDecryptRaw rk nr iv c'
    blockAt X' i ≠ blockAt X i ∧
    (i + 1 < c.length / 16 → blockAt X' (i + 1) = xorBlock (blockAt X (i + 1)) mask) ∧
    (∀ j, j < c.length / 16 → j ≠ i → j ≠ i + 1 → blockAt X' j = blockAt X j)
end

