-- ==== Sys2Proof/Laws/Lengths.lean ====
section
/-! SUPPORT. The lengths of the byte sequences the commands compute, which their bounds and frames rest on (R131, R200,
R220, R221). -/

namespace Sys2Proof.Machine

/-- The message has IN_LEN bytes. -/
@[simp] theorem State.message_length (s : State) : s.message.length = s.inLen.toNat := by simp [State.message]

/-- Padding adds the count it names. -/
theorem padBytes_length (d : List Byte) : (padBytes d).length = d.length + (16 - d.length % 16) := by
  simp [padBytes, padCount]

/-- Each word generated adds four bytes. -/
theorem expandLoop_length (n k i it : Nat) (W : List Byte) : (expandLoop n k i it W).length = W.length + 4 * k := by
  induction k generalizing i it W with
  | zero => rfl
  | succ k ih => rw [expandLoop, ih]; simp; omega

/-- A message splits into a sixteenth of its length. -/
@[simp] theorem blocksOf_length (bs : List Byte) : (blocksOf bs).length = bs.length / 16 := by simp [blocksOf]

/-- The encryption loop emits one block for each it takes. -/
theorem cbcEncryptFrom_length (rk : Vector Byte 240) (nr : Nat) (chain : Block) (ps : List Block) :
    (cbcEncryptFrom rk nr chain ps).length = 16 * ps.length := by
  induction ps generalizing chain with
  | nil => rfl
  | cons p ps ih => simp [cbcEncryptFrom, ih]; omega

/-- The decryption loop emits one block for each it takes. -/
theorem cbcDecryptFrom_length (rk : Vector Byte 240) (nr : Nat) (chain : Block) (cs : List Block) :
    (cbcDecryptFrom rk nr chain cs).length = 16 * cs.length := by
  induction cs generalizing chain with
  | nil => rfl
  | cons c cs ih => simp [cbcDecryptFrom, ih]; omega

/-- A ciphertext is as long as the padded message. -/
theorem cbcEncrypt_length (rk : Vector Byte 240) (nr : Nat) (iv : Block) (m : List Byte) :
    (cbcEncrypt rk nr iv m).length = m.length + (16 - m.length % 16) := by
  rw [cbcEncrypt, cbcEncryptFrom_length, blocksOf_length, padBytes_length]; omega

/-- The raw decryption of whole blocks is as long as they are. -/
theorem cbcDecryptRaw_length (rk : Vector Byte 240) (nr : Nat) (iv : Block) (c : List Byte) (h : c.length % 16 = 0) :
    (cbcDecryptRaw rk nr iv c).length = c.length := by
  rw [cbcDecryptRaw, cbcDecryptFrom_length, blocksOf_length]; omega

end Sys2Proof.Machine
end

