-- ==== Sys2Proof/Laws/State.lean ====
section
/-! SUPPORT. For each named update of the state, what it makes of each field; all true by rfl. -/

namespace Sys2Proof.Machine

/-! ### State.accept -/

@[simp] theorem State.accept_keyValid (s : State) (v : Word) :
    (s.accept v).keyValid = s.keyValid := rfl
@[simp] theorem State.accept_wdrop (s : State) (v : Word) :
    (s.accept v).wdrop = false := rfl
@[simp] theorem State.accept_err (s : State) (v : Word) :
    (s.accept v).err = .noError := rfl
@[simp] theorem State.accept_nr (s : State) (v : Word) :
    (s.accept v).nr = s.nr := rfl
@[simp] theorem State.accept_pend (s : State) (v : Word) :
    (s.accept v).pend = some v := rfl
@[simp] theorem State.accept_keyLen (s : State) (v : Word) :
    (s.accept v).keyLen = s.keyLen := rfl
@[simp] theorem State.accept_inLen (s : State) (v : Word) :
    (s.accept v).inLen = s.inLen := rfl
@[simp] theorem State.accept_outLen (s : State) (v : Word) :
    (s.accept v).outLen = s.outLen := rfl
@[simp] theorem State.accept_gfA (s : State) (v : Word) :
    (s.accept v).gfA = s.gfA := rfl
@[simp] theorem State.accept_gfB (s : State) (v : Word) :
    (s.accept v).gfB = s.gfB := rfl
@[simp] theorem State.accept_gfP (s : State) (v : Word) :
    (s.accept v).gfP = s.gfP := rfl
@[simp] theorem State.accept_maxBlocks (s : State) (v : Word) :
    (s.accept v).maxBlocks = s.maxBlocks := rfl
@[simp] theorem State.accept_key (s : State) (v : Word) :
    (s.accept v).key = s.key := rfl
@[simp] theorem State.accept_iv (s : State) (v : Word) :
    (s.accept v).iv = s.iv := rfl
@[simp] theorem State.accept_data (s : State) (v : Word) :
    (s.accept v).data = s.data := rfl
@[simp] theorem State.accept_rk (s : State) (v : Word) :
    (s.accept v).rk = s.rk := rfl
@[simp] theorem State.accept_inBuf (s : State) (v : Word) :
    (s.accept v).inBuf = s.inBuf := rfl
@[simp] theorem State.accept_outBuf (s : State) (v : Word) :
    (s.accept v).outBuf = s.outBuf := rfl
@[simp] theorem State.accept_program (s : State) (v : Word) :
    (s.accept v).program = s.program := rfl
@[simp] theorem State.accept_reads (s : State) (v : Word) :
    (s.accept v).reads = s.reads := rfl
@[simp] theorem State.accept_schedule (s : State) (v : Word) :
    (s.accept v).schedule = s.schedule := rfl
@[simp] theorem State.accept_resets (s : State) (v : Word) :
    (s.accept v).resets = s.resets := rfl
@[simp] theorem State.accept_draws (s : State) (v : Word) :
    (s.accept v).draws = s.draws := rfl

/-! ### State.complete -/

@[simp] theorem State.complete_keyValid (s : State) (e : ErrorCode) :
    (s.complete e).keyValid = s.keyValid := rfl
@[simp] theorem State.complete_wdrop (s : State) (e : ErrorCode) :
    (s.complete e).wdrop = s.wdrop := rfl
@[simp] theorem State.complete_err (s : State) (e : ErrorCode) :
    (s.complete e).err = e := rfl
@[simp] theorem State.complete_nr (s : State) (e : ErrorCode) :
    (s.complete e).nr = s.nr := rfl
@[simp] theorem State.complete_pend (s : State) (e : ErrorCode) :
    (s.complete e).pend = none := rfl
@[simp] theorem State.complete_keyLen (s : State) (e : ErrorCode) :
    (s.complete e).keyLen = s.keyLen := rfl
@[simp] theorem State.complete_inLen (s : State) (e : ErrorCode) :
    (s.complete e).inLen = s.inLen := rfl
@[simp] theorem State.complete_outLen (s : State) (e : ErrorCode) :
    (s.complete e).outLen = s.outLen := rfl
@[simp] theorem State.complete_gfA (s : State) (e : ErrorCode) :
    (s.complete e).gfA = s.gfA := rfl
@[simp] theorem State.complete_gfB (s : State) (e : ErrorCode) :
    (s.complete e).gfB = s.gfB := rfl
@[simp] theorem State.complete_gfP (s : State) (e : ErrorCode) :
    (s.complete e).gfP = s.gfP := rfl
@[simp] theorem State.complete_maxBlocks (s : State) (e : ErrorCode) :
    (s.complete e).maxBlocks = s.maxBlocks := rfl
@[simp] theorem State.complete_key (s : State) (e : ErrorCode) :
    (s.complete e).key = s.key := rfl
@[simp] theorem State.complete_iv (s : State) (e : ErrorCode) :
    (s.complete e).iv = s.iv := rfl
@[simp] theorem State.complete_data (s : State) (e : ErrorCode) :
    (s.complete e).data = s.data := rfl
@[simp] theorem State.complete_rk (s : State) (e : ErrorCode) :
    (s.complete e).rk = s.rk := rfl
@[simp] theorem State.complete_inBuf (s : State) (e : ErrorCode) :
    (s.complete e).inBuf = s.inBuf := rfl
@[simp] theorem State.complete_outBuf (s : State) (e : ErrorCode) :
    (s.complete e).outBuf = s.outBuf := rfl
@[simp] theorem State.complete_program (s : State) (e : ErrorCode) :
    (s.complete e).program = s.program := rfl
@[simp] theorem State.complete_reads (s : State) (e : ErrorCode) :
    (s.complete e).reads = s.reads := rfl
@[simp] theorem State.complete_schedule (s : State) (e : ErrorCode) :
    (s.complete e).schedule = s.schedule := rfl
@[simp] theorem State.complete_resets (s : State) (e : ErrorCode) :
    (s.complete e).resets = s.resets := rfl
@[simp] theorem State.complete_draws (s : State) (e : ErrorCode) :
    (s.complete e).draws = s.draws := rfl

/-! ### State.withData -/

@[simp] theorem State.withData_keyValid (s : State) (d : Vector Byte 16) :
    (s.withData d).keyValid = s.keyValid := rfl
@[simp] theorem State.withData_wdrop (s : State) (d : Vector Byte 16) :
    (s.withData d).wdrop = s.wdrop := rfl
@[simp] theorem State.withData_err (s : State) (d : Vector Byte 16) :
    (s.withData d).err = s.err := rfl
@[simp] theorem State.withData_nr (s : State) (d : Vector Byte 16) :
    (s.withData d).nr = s.nr := rfl
@[simp] theorem State.withData_pend (s : State) (d : Vector Byte 16) :
    (s.withData d).pend = s.pend := rfl
@[simp] theorem State.withData_keyLen (s : State) (d : Vector Byte 16) :
    (s.withData d).keyLen = s.keyLen := rfl
@[simp] theorem State.withData_inLen (s : State) (d : Vector Byte 16) :
    (s.withData d).inLen = s.inLen := rfl
@[simp] theorem State.withData_outLen (s : State) (d : Vector Byte 16) :
    (s.withData d).outLen = s.outLen := rfl
@[simp] theorem State.withData_gfA (s : State) (d : Vector Byte 16) :
    (s.withData d).gfA = s.gfA := rfl
@[simp] theorem State.withData_gfB (s : State) (d : Vector Byte 16) :
    (s.withData d).gfB = s.gfB := rfl
@[simp] theorem State.withData_gfP (s : State) (d : Vector Byte 16) :
    (s.withData d).gfP = s.gfP := rfl
@[simp] theorem State.withData_maxBlocks (s : State) (d : Vector Byte 16) :
    (s.withData d).maxBlocks = s.maxBlocks := rfl
@[simp] theorem State.withData_key (s : State) (d : Vector Byte 16) :
    (s.withData d).key = s.key := rfl
@[simp] theorem State.withData_iv (s : State) (d : Vector Byte 16) :
    (s.withData d).iv = s.iv := rfl
@[simp] theorem State.withData_data (s : State) (d : Vector Byte 16) :
    (s.withData d).data = d := rfl
@[simp] theorem State.withData_rk (s : State) (d : Vector Byte 16) :
    (s.withData d).rk = s.rk := rfl
@[simp] theorem State.withData_inBuf (s : State) (d : Vector Byte 16) :
    (s.withData d).inBuf = s.inBuf := rfl
@[simp] theorem State.withData_outBuf (s : State) (d : Vector Byte 16) :
    (s.withData d).outBuf = s.outBuf := rfl
@[simp] theorem State.withData_program (s : State) (d : Vector Byte 16) :
    (s.withData d).program = s.program := rfl
@[simp] theorem State.withData_reads (s : State) (d : Vector Byte 16) :
    (s.withData d).reads = s.reads := rfl
@[simp] theorem State.withData_schedule (s : State) (d : Vector Byte 16) :
    (s.withData d).schedule = s.schedule := rfl
@[simp] theorem State.withData_resets (s : State) (d : Vector Byte 16) :
    (s.withData d).resets = s.resets := rfl
@[simp] theorem State.withData_draws (s : State) (d : Vector Byte 16) :
    (s.withData d).draws = s.draws := rfl

/-! ### State.withResult -/

@[simp] theorem State.withResult_keyValid (s : State) (bs : List Byte) (n : Nat) :
    (s.withResult bs n).keyValid = s.keyValid := rfl
@[simp] theorem State.withResult_wdrop (s : State) (bs : List Byte) (n : Nat) :
    (s.withResult bs n).wdrop = s.wdrop := rfl
@[simp] theorem State.withResult_err (s : State) (bs : List Byte) (n : Nat) :
    (s.withResult bs n).err = s.err := rfl
@[simp] theorem State.withResult_nr (s : State) (bs : List Byte) (n : Nat) :
    (s.withResult bs n).nr = s.nr := rfl
@[simp] theorem State.withResult_pend (s : State) (bs : List Byte) (n : Nat) :
    (s.withResult bs n).pend = s.pend := rfl
@[simp] theorem State.withResult_keyLen (s : State) (bs : List Byte) (n : Nat) :
    (s.withResult bs n).keyLen = s.keyLen := rfl
@[simp] theorem State.withResult_inLen (s : State) (bs : List Byte) (n : Nat) :
    (s.withResult bs n).inLen = s.inLen := rfl
@[simp] theorem State.withResult_outLen (s : State) (bs : List Byte) (n : Nat) :
    (s.withResult bs n).outLen = BitVec.ofNat 32 n := rfl
@[simp] theorem State.withResult_gfA (s : State) (bs : List Byte) (n : Nat) :
    (s.withResult bs n).gfA = s.gfA := rfl
@[simp] theorem State.withResult_gfB (s : State) (bs : List Byte) (n : Nat) :
    (s.withResult bs n).gfB = s.gfB := rfl
@[simp] theorem State.withResult_gfP (s : State) (bs : List Byte) (n : Nat) :
    (s.withResult bs n).gfP = s.gfP := rfl
@[simp] theorem State.withResult_maxBlocks (s : State) (bs : List Byte) (n : Nat) :
    (s.withResult bs n).maxBlocks = s.maxBlocks := rfl
@[simp] theorem State.withResult_key (s : State) (bs : List Byte) (n : Nat) :
    (s.withResult bs n).key = s.key := rfl
@[simp] theorem State.withResult_iv (s : State) (bs : List Byte) (n : Nat) :
    (s.withResult bs n).iv = s.iv := rfl
@[simp] theorem State.withResult_data (s : State) (bs : List Byte) (n : Nat) :
    (s.withResult bs n).data = s.data := rfl
@[simp] theorem State.withResult_rk (s : State) (bs : List Byte) (n : Nat) :
    (s.withResult bs n).rk = s.rk := rfl
@[simp] theorem State.withResult_inBuf (s : State) (bs : List Byte) (n : Nat) :
    (s.withResult bs n).inBuf = s.inBuf := rfl
@[simp] theorem State.withResult_outBuf (s : State) (bs : List Byte) (n : Nat) :
    (s.withResult bs n).outBuf = Memory.write s.outBuf 0 bs := rfl
@[simp] theorem State.withResult_program (s : State) (bs : List Byte) (n : Nat) :
    (s.withResult bs n).program = s.program := rfl
@[simp] theorem State.withResult_reads (s : State) (bs : List Byte) (n : Nat) :
    (s.withResult bs n).reads = s.reads := rfl
@[simp] theorem State.withResult_schedule (s : State) (bs : List Byte) (n : Nat) :
    (s.withResult bs n).schedule = s.schedule := rfl
@[simp] theorem State.withResult_resets (s : State) (bs : List Byte) (n : Nat) :
    (s.withResult bs n).resets = s.resets := rfl
@[simp] theorem State.withResult_draws (s : State) (bs : List Byte) (n : Nat) :
    (s.withResult bs n).draws = s.draws := rfl

/-! ### State.noResult -/

@[simp] theorem State.noResult_keyValid (s : State) :
    (s.noResult).keyValid = s.keyValid := rfl
@[simp] theorem State.noResult_wdrop (s : State) :
    (s.noResult).wdrop = s.wdrop := rfl
@[simp] theorem State.noResult_err (s : State) :
    (s.noResult).err = s.err := rfl
@[simp] theorem State.noResult_nr (s : State) :
    (s.noResult).nr = s.nr := rfl
@[simp] theorem State.noResult_pend (s : State) :
    (s.noResult).pend = s.pend := rfl
@[simp] theorem State.noResult_keyLen (s : State) :
    (s.noResult).keyLen = s.keyLen := rfl
@[simp] theorem State.noResult_inLen (s : State) :
    (s.noResult).inLen = s.inLen := rfl
@[simp] theorem State.noResult_outLen (s : State) :
    (s.noResult).outLen = 0 := rfl
@[simp] theorem State.noResult_gfA (s : State) :
    (s.noResult).gfA = s.gfA := rfl
@[simp] theorem State.noResult_gfB (s : State) :
    (s.noResult).gfB = s.gfB := rfl
@[simp] theorem State.noResult_gfP (s : State) :
    (s.noResult).gfP = s.gfP := rfl
@[simp] theorem State.noResult_maxBlocks (s : State) :
    (s.noResult).maxBlocks = s.maxBlocks := rfl
@[simp] theorem State.noResult_key (s : State) :
    (s.noResult).key = s.key := rfl
@[simp] theorem State.noResult_iv (s : State) :
    (s.noResult).iv = s.iv := rfl
@[simp] theorem State.noResult_data (s : State) :
    (s.noResult).data = s.data := rfl
@[simp] theorem State.noResult_rk (s : State) :
    (s.noResult).rk = s.rk := rfl
@[simp] theorem State.noResult_inBuf (s : State) :
    (s.noResult).inBuf = s.inBuf := rfl
@[simp] theorem State.noResult_outBuf (s : State) :
    (s.noResult).outBuf = s.outBuf := rfl
@[simp] theorem State.noResult_program (s : State) :
    (s.noResult).program = s.program := rfl
@[simp] theorem State.noResult_reads (s : State) :
    (s.noResult).reads = s.reads := rfl
@[simp] theorem State.noResult_schedule (s : State) :
    (s.noResult).schedule = s.schedule := rfl
@[simp] theorem State.noResult_resets (s : State) :
    (s.noResult).resets = s.resets := rfl
@[simp] theorem State.noResult_draws (s : State) :
    (s.noResult).draws = s.draws := rfl

/-! ### State.dropExpandedKey -/

@[simp] theorem State.dropExpandedKey_keyValid (s : State) :
    (s.dropExpandedKey).keyValid = false := rfl
@[simp] theorem State.dropExpandedKey_wdrop (s : State) :
    (s.dropExpandedKey).wdrop = s.wdrop := rfl
@[simp] theorem State.dropExpandedKey_err (s : State) :
    (s.dropExpandedKey).err = s.err := rfl
@[simp] theorem State.dropExpandedKey_nr (s : State) :
    (s.dropExpandedKey).nr = 0 := rfl
@[simp] theorem State.dropExpandedKey_pend (s : State) :
    (s.dropExpandedKey).pend = s.pend := rfl
@[simp] theorem State.dropExpandedKey_keyLen (s : State) :
    (s.dropExpandedKey).keyLen = s.keyLen := rfl
@[simp] theorem State.dropExpandedKey_inLen (s : State) :
    (s.dropExpandedKey).inLen = s.inLen := rfl
@[simp] theorem State.dropExpandedKey_outLen (s : State) :
    (s.dropExpandedKey).outLen = s.outLen := rfl
@[simp] theorem State.dropExpandedKey_gfA (s : State) :
    (s.dropExpandedKey).gfA = s.gfA := rfl
@[simp] theorem State.dropExpandedKey_gfB (s : State) :
    (s.dropExpandedKey).gfB = s.gfB := rfl
@[simp] theorem State.dropExpandedKey_gfP (s : State) :
    (s.dropExpandedKey).gfP = s.gfP := rfl
@[simp] theorem State.dropExpandedKey_maxBlocks (s : State) :
    (s.dropExpandedKey).maxBlocks = s.maxBlocks := rfl
@[simp] theorem State.dropExpandedKey_key (s : State) :
    (s.dropExpandedKey).key = s.key := rfl
@[simp] theorem State.dropExpandedKey_iv (s : State) :
    (s.dropExpandedKey).iv = s.iv := rfl
@[simp] theorem State.dropExpandedKey_data (s : State) :
    (s.dropExpandedKey).data = s.data := rfl
@[simp] theorem State.dropExpandedKey_rk (s : State) :
    (s.dropExpandedKey).rk = Vector.replicate 240 0 := rfl
@[simp] theorem State.dropExpandedKey_inBuf (s : State) :
    (s.dropExpandedKey).inBuf = s.inBuf := rfl
@[simp] theorem State.dropExpandedKey_outBuf (s : State) :
    (s.dropExpandedKey).outBuf = s.outBuf := rfl
@[simp] theorem State.dropExpandedKey_program (s : State) :
    (s.dropExpandedKey).program = s.program := rfl
@[simp] theorem State.dropExpandedKey_reads (s : State) :
    (s.dropExpandedKey).reads = s.reads := rfl
@[simp] theorem State.dropExpandedKey_schedule (s : State) :
    (s.dropExpandedKey).schedule = s.schedule := rfl
@[simp] theorem State.dropExpandedKey_resets (s : State) :
    (s.dropExpandedKey).resets = s.resets := rfl
@[simp] theorem State.dropExpandedKey_draws (s : State) :
    (s.dropExpandedKey).draws = s.draws := rfl

/-! ### State.storeExpandedKey -/

@[simp] theorem State.storeExpandedKey_keyValid (s : State) (rk : Vector Byte 240) (nr : Nat) :
    (s.storeExpandedKey rk nr).keyValid = true := rfl
@[simp] theorem State.storeExpandedKey_wdrop (s : State) (rk : Vector Byte 240) (nr : Nat) :
    (s.storeExpandedKey rk nr).wdrop = s.wdrop := rfl
@[simp] theorem State.storeExpandedKey_err (s : State) (rk : Vector Byte 240) (nr : Nat) :
    (s.storeExpandedKey rk nr).err = s.err := rfl
@[simp] theorem State.storeExpandedKey_nr (s : State) (rk : Vector Byte 240) (nr : Nat) :
    (s.storeExpandedKey rk nr).nr = BitVec.ofNat 4 nr := rfl
@[simp] theorem State.storeExpandedKey_pend (s : State) (rk : Vector Byte 240) (nr : Nat) :
    (s.storeExpandedKey rk nr).pend = s.pend := rfl
@[simp] theorem State.storeExpandedKey_keyLen (s : State) (rk : Vector Byte 240) (nr : Nat) :
    (s.storeExpandedKey rk nr).keyLen = s.keyLen := rfl
@[simp] theorem State.storeExpandedKey_inLen (s : State) (rk : Vector Byte 240) (nr : Nat) :
    (s.storeExpandedKey rk nr).inLen = s.inLen := rfl
@[simp] theorem State.storeExpandedKey_outLen (s : State) (rk : Vector Byte 240) (nr : Nat) :
    (s.storeExpandedKey rk nr).outLen = s.outLen := rfl
@[simp] theorem State.storeExpandedKey_gfA (s : State) (rk : Vector Byte 240) (nr : Nat) :
    (s.storeExpandedKey rk nr).gfA = s.gfA := rfl
@[simp] theorem State.storeExpandedKey_gfB (s : State) (rk : Vector Byte 240) (nr : Nat) :
    (s.storeExpandedKey rk nr).gfB = s.gfB := rfl
@[simp] theorem State.storeExpandedKey_gfP (s : State) (rk : Vector Byte 240) (nr : Nat) :
    (s.storeExpandedKey rk nr).gfP = s.gfP := rfl
@[simp] theorem State.storeExpandedKey_maxBlocks (s : State) (rk : Vector Byte 240) (nr : Nat) :
    (s.storeExpandedKey rk nr).maxBlocks = s.maxBlocks := rfl
@[simp] theorem State.storeExpandedKey_key (s : State) (rk : Vector Byte 240) (nr : Nat) :
    (s.storeExpandedKey rk nr).key = s.key := rfl
@[simp] theorem State.storeExpandedKey_iv (s : State) (rk : Vector Byte 240) (nr : Nat) :
    (s.storeExpandedKey rk nr).iv = s.iv := rfl
@[simp] theorem State.storeExpandedKey_data (s : State) (rk : Vector Byte 240) (nr : Nat) :
    (s.storeExpandedKey rk nr).data = s.data := rfl
@[simp] theorem State.storeExpandedKey_rk (s : State) (rk : Vector Byte 240) (nr : Nat) :
    (s.storeExpandedKey rk nr).rk = rk := rfl
@[simp] theorem State.storeExpandedKey_inBuf (s : State) (rk : Vector Byte 240) (nr : Nat) :
    (s.storeExpandedKey rk nr).inBuf = s.inBuf := rfl
@[simp] theorem State.storeExpandedKey_outBuf (s : State) (rk : Vector Byte 240) (nr : Nat) :
    (s.storeExpandedKey rk nr).outBuf = s.outBuf := rfl
@[simp] theorem State.storeExpandedKey_program (s : State) (rk : Vector Byte 240) (nr : Nat) :
    (s.storeExpandedKey rk nr).program = s.program := rfl
@[simp] theorem State.storeExpandedKey_reads (s : State) (rk : Vector Byte 240) (nr : Nat) :
    (s.storeExpandedKey rk nr).reads = s.reads := rfl
@[simp] theorem State.storeExpandedKey_schedule (s : State) (rk : Vector Byte 240) (nr : Nat) :
    (s.storeExpandedKey rk nr).schedule = s.schedule := rfl
@[simp] theorem State.storeExpandedKey_resets (s : State) (rk : Vector Byte 240) (nr : Nat) :
    (s.storeExpandedKey rk nr).resets = s.resets := rfl
@[simp] theorem State.storeExpandedKey_draws (s : State) (rk : Vector Byte 240) (nr : Nat) :
    (s.storeExpandedKey rk nr).draws = s.draws := rfl

/-! ### State.eraseKey -/

@[simp] theorem State.eraseKey_keyValid (s : State) :
    (s.eraseKey).keyValid = s.keyValid := rfl
@[simp] theorem State.eraseKey_wdrop (s : State) :
    (s.eraseKey).wdrop = s.wdrop := rfl
@[simp] theorem State.eraseKey_err (s : State) :
    (s.eraseKey).err = s.err := rfl
@[simp] theorem State.eraseKey_nr (s : State) :
    (s.eraseKey).nr = s.nr := rfl
@[simp] theorem State.eraseKey_pend (s : State) :
    (s.eraseKey).pend = s.pend := rfl
@[simp] theorem State.eraseKey_keyLen (s : State) :
    (s.eraseKey).keyLen = s.keyLen := rfl
@[simp] theorem State.eraseKey_inLen (s : State) :
    (s.eraseKey).inLen = s.inLen := rfl
@[simp] theorem State.eraseKey_outLen (s : State) :
    (s.eraseKey).outLen = s.outLen := rfl
@[simp] theorem State.eraseKey_gfA (s : State) :
    (s.eraseKey).gfA = s.gfA := rfl
@[simp] theorem State.eraseKey_gfB (s : State) :
    (s.eraseKey).gfB = s.gfB := rfl
@[simp] theorem State.eraseKey_gfP (s : State) :
    (s.eraseKey).gfP = s.gfP := rfl
@[simp] theorem State.eraseKey_maxBlocks (s : State) :
    (s.eraseKey).maxBlocks = s.maxBlocks := rfl
@[simp] theorem State.eraseKey_key (s : State) :
    (s.eraseKey).key = Vector.replicate 32 0 := rfl
@[simp] theorem State.eraseKey_iv (s : State) :
    (s.eraseKey).iv = s.iv := rfl
@[simp] theorem State.eraseKey_data (s : State) :
    (s.eraseKey).data = s.data := rfl
@[simp] theorem State.eraseKey_rk (s : State) :
    (s.eraseKey).rk = s.rk := rfl
@[simp] theorem State.eraseKey_inBuf (s : State) :
    (s.eraseKey).inBuf = s.inBuf := rfl
@[simp] theorem State.eraseKey_outBuf (s : State) :
    (s.eraseKey).outBuf = s.outBuf := rfl
@[simp] theorem State.eraseKey_program (s : State) :
    (s.eraseKey).program = s.program := rfl
@[simp] theorem State.eraseKey_reads (s : State) :
    (s.eraseKey).reads = s.reads := rfl
@[simp] theorem State.eraseKey_schedule (s : State) :
    (s.eraseKey).schedule = s.schedule := rfl
@[simp] theorem State.eraseKey_resets (s : State) :
    (s.eraseKey).resets = s.resets := rfl
@[simp] theorem State.eraseKey_draws (s : State) :
    (s.eraseKey).draws = s.draws := rfl

/-! ### State.spendTurn -/

@[simp] theorem State.spendTurn_keyValid (s : State) :
    (s.spendTurn).keyValid = s.keyValid := rfl
@[simp] theorem State.spendTurn_wdrop (s : State) :
    (s.spendTurn).wdrop = s.wdrop := rfl
@[simp] theorem State.spendTurn_err (s : State) :
    (s.spendTurn).err = s.err := rfl
@[simp] theorem State.spendTurn_nr (s : State) :
    (s.spendTurn).nr = s.nr := rfl
@[simp] theorem State.spendTurn_pend (s : State) :
    (s.spendTurn).pend = s.pend := rfl
@[simp] theorem State.spendTurn_keyLen (s : State) :
    (s.spendTurn).keyLen = s.keyLen := rfl
@[simp] theorem State.spendTurn_inLen (s : State) :
    (s.spendTurn).inLen = s.inLen := rfl
@[simp] theorem State.spendTurn_outLen (s : State) :
    (s.spendTurn).outLen = s.outLen := rfl
@[simp] theorem State.spendTurn_gfA (s : State) :
    (s.spendTurn).gfA = s.gfA := rfl
@[simp] theorem State.spendTurn_gfB (s : State) :
    (s.spendTurn).gfB = s.gfB := rfl
@[simp] theorem State.spendTurn_gfP (s : State) :
    (s.spendTurn).gfP = s.gfP := rfl
@[simp] theorem State.spendTurn_maxBlocks (s : State) :
    (s.spendTurn).maxBlocks = s.maxBlocks := rfl
@[simp] theorem State.spendTurn_key (s : State) :
    (s.spendTurn).key = s.key := rfl
@[simp] theorem State.spendTurn_iv (s : State) :
    (s.spendTurn).iv = s.iv := rfl
@[simp] theorem State.spendTurn_data (s : State) :
    (s.spendTurn).data = s.data := rfl
@[simp] theorem State.spendTurn_rk (s : State) :
    (s.spendTurn).rk = s.rk := rfl
@[simp] theorem State.spendTurn_inBuf (s : State) :
    (s.spendTurn).inBuf = s.inBuf := rfl
@[simp] theorem State.spendTurn_outBuf (s : State) :
    (s.spendTurn).outBuf = s.outBuf := rfl
@[simp] theorem State.spendTurn_program (s : State) :
    (s.spendTurn).program = s.program := rfl
@[simp] theorem State.spendTurn_reads (s : State) :
    (s.spendTurn).reads = s.reads := rfl
@[simp] theorem State.spendTurn_schedule (s : State) :
    (s.spendTurn).schedule = s.schedule.tail := rfl
@[simp] theorem State.spendTurn_resets (s : State) :
    (s.spendTurn).resets = s.resets := rfl
@[simp] theorem State.spendTurn_draws (s : State) :
    (s.spendTurn).draws = s.draws := rfl

/-! ### State.placeCommand -/

@[simp] theorem State.placeCommand_keyValid (s : State) (v : Word) :
    (s.placeCommand v).keyValid = s.keyValid := rfl
@[simp] theorem State.placeCommand_wdrop (s : State) (v : Word) :
    (s.placeCommand v).wdrop = false := rfl
@[simp] theorem State.placeCommand_err (s : State) (v : Word) :
    (s.placeCommand v).err = .noError := rfl
@[simp] theorem State.placeCommand_nr (s : State) (v : Word) :
    (s.placeCommand v).nr = s.nr := rfl
@[simp] theorem State.placeCommand_pend (s : State) (v : Word) :
    (s.placeCommand v).pend = some v := rfl
@[simp] theorem State.placeCommand_keyLen (s : State) (v : Word) :
    (s.placeCommand v).keyLen = s.keyLen := rfl
@[simp] theorem State.placeCommand_inLen (s : State) (v : Word) :
    (s.placeCommand v).inLen = s.inLen := rfl
@[simp] theorem State.placeCommand_outLen (s : State) (v : Word) :
    (s.placeCommand v).outLen = s.outLen := rfl
@[simp] theorem State.placeCommand_gfA (s : State) (v : Word) :
    (s.placeCommand v).gfA = s.gfA := rfl
@[simp] theorem State.placeCommand_gfB (s : State) (v : Word) :
    (s.placeCommand v).gfB = s.gfB := rfl
@[simp] theorem State.placeCommand_gfP (s : State) (v : Word) :
    (s.placeCommand v).gfP = s.gfP := rfl
@[simp] theorem State.placeCommand_maxBlocks (s : State) (v : Word) :
    (s.placeCommand v).maxBlocks = s.maxBlocks := rfl
@[simp] theorem State.placeCommand_key (s : State) (v : Word) :
    (s.placeCommand v).key = s.key := rfl
@[simp] theorem State.placeCommand_iv (s : State) (v : Word) :
    (s.placeCommand v).iv = s.iv := rfl
@[simp] theorem State.placeCommand_data (s : State) (v : Word) :
    (s.placeCommand v).data = s.data := rfl
@[simp] theorem State.placeCommand_rk (s : State) (v : Word) :
    (s.placeCommand v).rk = s.rk := rfl
@[simp] theorem State.placeCommand_inBuf (s : State) (v : Word) :
    (s.placeCommand v).inBuf = s.inBuf := rfl
@[simp] theorem State.placeCommand_outBuf (s : State) (v : Word) :
    (s.placeCommand v).outBuf = s.outBuf := rfl
@[simp] theorem State.placeCommand_program (s : State) (v : Word) :
    (s.placeCommand v).program = s.program := rfl
@[simp] theorem State.placeCommand_reads (s : State) (v : Word) :
    (s.placeCommand v).reads = s.reads := rfl
@[simp] theorem State.placeCommand_schedule (s : State) (v : Word) :
    (s.placeCommand v).schedule = .engine :: s.schedule := rfl
@[simp] theorem State.placeCommand_resets (s : State) (v : Word) :
    (s.placeCommand v).resets = s.resets := rfl
@[simp] theorem State.placeCommand_draws (s : State) (v : Word) :
    (s.placeCommand v).draws = s.draws := rfl

/-! ### State.resetEvent -/

@[simp] theorem State.resetEvent_keyValid (s : State) :
    (s.resetEvent).keyValid = false := rfl
@[simp] theorem State.resetEvent_wdrop (s : State) :
    (s.resetEvent).wdrop = false := rfl
@[simp] theorem State.resetEvent_err (s : State) :
    (s.resetEvent).err = .noError := rfl
@[simp] theorem State.resetEvent_nr (s : State) :
    (s.resetEvent).nr = 0 := rfl
@[simp] theorem State.resetEvent_pend (s : State) :
    (s.resetEvent).pend = none := rfl
@[simp] theorem State.resetEvent_keyLen (s : State) :
    (s.resetEvent).keyLen = 0 := rfl
@[simp] theorem State.resetEvent_inLen (s : State) :
    (s.resetEvent).inLen = 0 := rfl
@[simp] theorem State.resetEvent_outLen (s : State) :
    (s.resetEvent).outLen = 0 := rfl
@[simp] theorem State.resetEvent_gfA (s : State) :
    (s.resetEvent).gfA = 0 := rfl
@[simp] theorem State.resetEvent_gfB (s : State) :
    (s.resetEvent).gfB = 0 := rfl
@[simp] theorem State.resetEvent_gfP (s : State) :
    (s.resetEvent).gfP = 0 := rfl
@[simp] theorem State.resetEvent_maxBlocks (s : State) :
    (s.resetEvent).maxBlocks = s.maxBlocks := rfl
@[simp] theorem State.resetEvent_key (s : State) :
    (s.resetEvent).key = Vector.replicate 32 0 := rfl
@[simp] theorem State.resetEvent_iv (s : State) :
    (s.resetEvent).iv = Vector.replicate 16 0 := rfl
@[simp] theorem State.resetEvent_data (s : State) :
    (s.resetEvent).data = Vector.replicate 16 0 := rfl
@[simp] theorem State.resetEvent_rk (s : State) :
    (s.resetEvent).rk = Vector.replicate 240 0 := rfl
@[simp] theorem State.resetEvent_inBuf (s : State) :
    (s.resetEvent).inBuf = [] := rfl
@[simp] theorem State.resetEvent_outBuf (s : State) :
    (s.resetEvent).outBuf = [] := rfl
@[simp] theorem State.resetEvent_program (s : State) :
    (s.resetEvent).program = s.program := rfl
@[simp] theorem State.resetEvent_reads (s : State) :
    (s.resetEvent).reads = s.reads := rfl
@[simp] theorem State.resetEvent_schedule (s : State) :
    (s.resetEvent).schedule = s.schedule := rfl
@[simp] theorem State.resetEvent_resets (s : State) :
    (s.resetEvent).resets = s.resets + 1 := rfl
@[simp] theorem State.resetEvent_draws (s : State) :
    (s.resetEvent).draws = s.draws := rfl

/-! ### State.withProgram -/

@[simp] theorem State.withProgram_keyValid (s : State) (ops : List HostOp) :
    (s.withProgram ops).keyValid = s.keyValid := rfl
@[simp] theorem State.withProgram_wdrop (s : State) (ops : List HostOp) :
    (s.withProgram ops).wdrop = s.wdrop := rfl
@[simp] theorem State.withProgram_err (s : State) (ops : List HostOp) :
    (s.withProgram ops).err = s.err := rfl
@[simp] theorem State.withProgram_nr (s : State) (ops : List HostOp) :
    (s.withProgram ops).nr = s.nr := rfl
@[simp] theorem State.withProgram_pend (s : State) (ops : List HostOp) :
    (s.withProgram ops).pend = s.pend := rfl
@[simp] theorem State.withProgram_keyLen (s : State) (ops : List HostOp) :
    (s.withProgram ops).keyLen = s.keyLen := rfl
@[simp] theorem State.withProgram_inLen (s : State) (ops : List HostOp) :
    (s.withProgram ops).inLen = s.inLen := rfl
@[simp] theorem State.withProgram_outLen (s : State) (ops : List HostOp) :
    (s.withProgram ops).outLen = s.outLen := rfl
@[simp] theorem State.withProgram_gfA (s : State) (ops : List HostOp) :
    (s.withProgram ops).gfA = s.gfA := rfl
@[simp] theorem State.withProgram_gfB (s : State) (ops : List HostOp) :
    (s.withProgram ops).gfB = s.gfB := rfl
@[simp] theorem State.withProgram_gfP (s : State) (ops : List HostOp) :
    (s.withProgram ops).gfP = s.gfP := rfl
@[simp] theorem State.withProgram_maxBlocks (s : State) (ops : List HostOp) :
    (s.withProgram ops).maxBlocks = s.maxBlocks := rfl
@[simp] theorem State.withProgram_key (s : State) (ops : List HostOp) :
    (s.withProgram ops).key = s.key := rfl
@[simp] theorem State.withProgram_iv (s : State) (ops : List HostOp) :
    (s.withProgram ops).iv = s.iv := rfl
@[simp] theorem State.withProgram_data (s : State) (ops : List HostOp) :
    (s.withProgram ops).data = s.data := rfl
@[simp] theorem State.withProgram_rk (s : State) (ops : List HostOp) :
    (s.withProgram ops).rk = s.rk := rfl
@[simp] theorem State.withProgram_inBuf (s : State) (ops : List HostOp) :
    (s.withProgram ops).inBuf = s.inBuf := rfl
@[simp] theorem State.withProgram_outBuf (s : State) (ops : List HostOp) :
    (s.withProgram ops).outBuf = s.outBuf := rfl
@[simp] theorem State.withProgram_program (s : State) (ops : List HostOp) :
    (s.withProgram ops).program = ops := rfl
@[simp] theorem State.withProgram_reads (s : State) (ops : List HostOp) :
    (s.withProgram ops).reads = s.reads := rfl
@[simp] theorem State.withProgram_schedule (s : State) (ops : List HostOp) :
    (s.withProgram ops).schedule = s.schedule := rfl
@[simp] theorem State.withProgram_resets (s : State) (ops : List HostOp) :
    (s.withProgram ops).resets = s.resets := rfl
@[simp] theorem State.withProgram_draws (s : State) (ops : List HostOp) :
    (s.withProgram ops).draws = s.draws := rfl

/-! ### State.withRead -/

@[simp] theorem State.withRead_keyValid (s : State) (r : ReadResult) :
    (s.withRead r).keyValid = s.keyValid := rfl
@[simp] theorem State.withRead_wdrop (s : State) (r : ReadResult) :
    (s.withRead r).wdrop = s.wdrop := rfl
@[simp] theorem State.withRead_err (s : State) (r : ReadResult) :
    (s.withRead r).err = s.err := rfl
@[simp] theorem State.withRead_nr (s : State) (r : ReadResult) :
    (s.withRead r).nr = s.nr := rfl
@[simp] theorem State.withRead_pend (s : State) (r : ReadResult) :
    (s.withRead r).pend = s.pend := rfl
@[simp] theorem State.withRead_keyLen (s : State) (r : ReadResult) :
    (s.withRead r).keyLen = s.keyLen := rfl
@[simp] theorem State.withRead_inLen (s : State) (r : ReadResult) :
    (s.withRead r).inLen = s.inLen := rfl
@[simp] theorem State.withRead_outLen (s : State) (r : ReadResult) :
    (s.withRead r).outLen = s.outLen := rfl
@[simp] theorem State.withRead_gfA (s : State) (r : ReadResult) :
    (s.withRead r).gfA = s.gfA := rfl
@[simp] theorem State.withRead_gfB (s : State) (r : ReadResult) :
    (s.withRead r).gfB = s.gfB := rfl
@[simp] theorem State.withRead_gfP (s : State) (r : ReadResult) :
    (s.withRead r).gfP = s.gfP := rfl
@[simp] theorem State.withRead_maxBlocks (s : State) (r : ReadResult) :
    (s.withRead r).maxBlocks = s.maxBlocks := rfl
@[simp] theorem State.withRead_key (s : State) (r : ReadResult) :
    (s.withRead r).key = s.key := rfl
@[simp] theorem State.withRead_iv (s : State) (r : ReadResult) :
    (s.withRead r).iv = s.iv := rfl
@[simp] theorem State.withRead_data (s : State) (r : ReadResult) :
    (s.withRead r).data = s.data := rfl
@[simp] theorem State.withRead_rk (s : State) (r : ReadResult) :
    (s.withRead r).rk = s.rk := rfl
@[simp] theorem State.withRead_inBuf (s : State) (r : ReadResult) :
    (s.withRead r).inBuf = s.inBuf := rfl
@[simp] theorem State.withRead_outBuf (s : State) (r : ReadResult) :
    (s.withRead r).outBuf = s.outBuf := rfl
@[simp] theorem State.withRead_program (s : State) (r : ReadResult) :
    (s.withRead r).program = s.program := rfl
@[simp] theorem State.withRead_reads (s : State) (r : ReadResult) :
    (s.withRead r).reads = s.reads ++ [r] := rfl
@[simp] theorem State.withRead_schedule (s : State) (r : ReadResult) :
    (s.withRead r).schedule = s.schedule := rfl
@[simp] theorem State.withRead_resets (s : State) (r : ReadResult) :
    (s.withRead r).resets = s.resets := rfl
@[simp] theorem State.withRead_draws (s : State) (r : ReadResult) :
    (s.withRead r).draws = s.draws := rfl

end Sys2Proof.Machine
end

