-- ==== Sys2Proof/Laws/Memory.lean ====
section
/-! SUPPORT. Buffer memory: read after write, every other byte unchanged, and the canonical form kept. -/

namespace Sys2Proof.Machine

@[simp] theorem Memory.get_nil (k : Nat) : Memory.get [] k = none := rfl

/-- Reading after a write of one byte. -/
theorem Memory.get_set (m : List Host.Cell) (k : Nat) (v : Byte) (a : Nat) :
    Memory.get (Memory.set m k v) a = if a = k then some v else Memory.get m a := by
  induction m with
  | nil =>
    by_cases h : k = a
    · simp [Memory.set, Memory.get, h]
    · simp [Memory.set, Memory.get, h, Ne.symm h]
  | cons c m ih =>
    obtain ⟨b, x⟩ := c
    simp only [Memory.set]
    split
    · by_cases h : k = a
      · simp [Memory.get, h]
      · simp [Memory.get, h, Ne.symm h]
    · split
      · rename_i h; subst h
        by_cases h : k = a
        · simp [Memory.get, h]
        · simp [Memory.get, h, Ne.symm h]
      · rename_i h1 h2
        simp only [Memory.get, ih]
        by_cases h : b = a
        · subst h; simp [Ne.symm h2]
        · simp [h]

/-- Reading after a write of a run of bytes. -/
theorem Memory.get_write (m : List Host.Cell) (bs : List Byte) (base a : Nat) :
    Memory.get (Memory.write m base bs) a =
      if base ≤ a ∧ a < base + bs.length then some (bs.getD (a - base) 0) else Memory.get m a := by
  induction bs generalizing base with
  | nil => simp [Memory.write]
  | cons b bs ih =>
    rw [Memory.write, Memory.get_set, ih]
    by_cases h : a = base
    · subst h; simp
    · by_cases h2 : base + 1 ≤ a ∧ a < base + 1 + bs.length
      · have h3 : a - base = (a - (base + 1)) + 1 := by omega
        have h4 : base ≤ a ∧ a < base + (bs.length + 1) := by omega
        simp only [h, if_false, if_pos h2, List.length_cons, if_pos h4, h3, List.getD_cons_succ]
      · have h4 : ¬ (base ≤ a ∧ a < base + (bs.length + 1)) := by omega
        simp only [h, if_false, if_neg h2, List.length_cons, if_neg h4]

theorem Memory.risesAbove_set (m : List Host.Cell) (low k : Nat) (v : Byte)
    (hm : Memory.risesAbove low m = true) (hk : low < k) : Memory.risesAbove low (Memory.set m k v) = true := by
  induction m generalizing low with
  | nil => simp [Memory.set, Memory.risesAbove, hk]
  | cons c m ih =>
    obtain ⟨b, x⟩ := c
    simp only [Memory.risesAbove, Bool.and_eq_true, decide_eq_true_eq] at hm
    simp only [Memory.set]
    split
    · rename_i h; simp [Memory.risesAbove, hk, h, hm.2]
    · split
      · rename_i h; subst h; simp [Memory.risesAbove, hm]
      · rename_i h1 h2
        simp only [Memory.risesAbove, Bool.and_eq_true, decide_eq_true_eq]
        exact ⟨hm.1, ih b hm.2 (by omega)⟩

theorem Memory.rises_set (m : List Host.Cell) (k : Nat) (v : Byte) (hm : Memory.rises m = true) :
    Memory.rises (Memory.set m k v) = true := by
  cases m with
  | nil => rfl
  | cons c m =>
    obtain ⟨b, x⟩ := c
    simp only [Memory.rises] at hm
    simp only [Memory.set]
    split
    · rename_i h; simp [Memory.rises, Memory.risesAbove, h, hm]
    · split
      · rename_i h; subst h; exact hm
      · rename_i h1 h2; exact Memory.risesAbove_set m b k v hm (by omega)

theorem Memory.mem_set (m : List Host.Cell) (k : Nat) (v : Byte) (c : Host.Cell)
    (hc : c ∈ Memory.set m k v) : c = (k, v) ∨ c ∈ m := by
  induction m with
  | nil => simpa [Memory.set] using hc
  | cons d m ih =>
    obtain ⟨b, x⟩ := d
    simp only [Memory.set] at hc
    split at hc
    · simpa using hc
    · split at hc
      · rcases List.mem_cons.mp hc with h | h
        · exact .inl h
        · exact .inr (List.mem_cons_of_mem _ h)
      · rcases List.mem_cons.mp hc with h | h
        · exact .inr (h ▸ List.mem_cons_self ..)
        · exact (ih h).imp_right (List.mem_cons_of_mem _)

/-- A write of one byte inside the buffer keeps the canonical form. -/
theorem Memory.wf_set (cap : Nat) (m : List Host.Cell) (k : Nat) (v : Byte)
    (hm : Memory.wf cap m = true) (hk : k < cap) : Memory.wf cap (Memory.set m k v) = true := by
  simp only [Memory.wf, Bool.and_eq_true, List.all_eq_true, decide_eq_true_eq] at hm ⊢
  refine ⟨Memory.rises_set m k v hm.1, fun c hc => ?_⟩
  rcases Memory.mem_set m k v c hc with rfl | h
  · exact hk
  · exact hm.2 c h

/-- A write of a run of bytes inside the buffer keeps the canonical form. -/
theorem Memory.wf_write (cap : Nat) (m : List Host.Cell) (bs : List Byte) (base : Nat)
    (hm : Memory.wf cap m = true) (hb : base + bs.length ≤ cap) : Memory.wf cap (Memory.write m base bs) = true := by
  induction bs generalizing base with
  | nil => exact hm
  | cons b bs ih =>
    simp only [List.length_cons] at hb
    exact Memory.wf_set cap _ base b (ih (base + 1) (by omega)) (by omega)

/-- The buffers of the reset state are in canonical form. -/
theorem Memory.wf_reset (b : Config.Buffer) : Memory.wf State.reset.capacity (State.reset.buffer b) = true := by
  cases b <;> rfl

/-- Reading OUT after a result has been written from byte 0. -/
theorem State.outByte_withResult (s : State) (bs : List Byte) (n a : Nat) :
    (s.withResult bs n).outByte a = if a < bs.length then bs.getD a 0 else s.outByte a := by
  have h : Memory.get (Memory.write s.outBuf 0 bs) a =
      if a < bs.length then some (bs.getD a 0) else Memory.get s.outBuf a := by
    simpa using Memory.get_write s.outBuf bs 0 a
  simp only [State.outByte, State.bufferByte, State.buffer, State.withResult_outBuf, h, State.withResult_resets]
  by_cases hl : a < bs.length <;> simp [hl]

/-- Writing OUT leaves IN as it was. -/
@[simp] theorem State.inByte_withResult (s : State) (bs : List Byte) (n a : Nat) :
    (s.withResult bs n).inByte a = s.inByte a := rfl

end Sys2Proof.Machine
end

