-- ==== Sys2Proof/Laws/Operations.lean ====
section
/-! SUPPORT. For each shared operation of the machine, everything it can do, said once. -/

namespace Sys2Proof.Machine

/-! ### Completion -/

/-- A command that finishes answers the state completed with no error. -/
theorem finish_eq_next {s t : State} : finish s = .next t ↔ t = s.complete .noError := by
  simp [finish, eq_comm]

/-- A command that raises answers the state completed with the code. -/
theorem raise_eq_next {e : ErrorCode} {s t : State} : raise e s = .next t ↔ t = s.complete e := by
  simp [raise, eq_comm]

/-- An illegal word completes with code 4 and no other effect. -/
theorem completeIllegal_eq_next {s t : State} :
    completeIllegal s = .next t ↔ t = s.complete .illegalCommand := raise_eq_next

theorem requireKey_of_key {s u : State} (h : s.keyValid = true) (run : Host.Outcome State Fault Refusal) :
    requireKey s u run = run := by simp [requireKey, h]

theorem requireKey_of_noKey {s u : State} (h : s.keyValid = false) (run : Host.Outcome State Fault Refusal) :
    requireKey s u run = .next (u.complete .keyNotReady) := by simp [requireKey, h, raise]

/-- A command that needs a key runs with one, and else completes with code 5. -/
theorem requireKey_eq_next {s u t : State} {run : Host.Outcome State Fault Refusal}
    (h : requireKey s u run = .next t) :
    (s.keyValid = true ∧ run = .next t) ∨ (s.keyValid = false ∧ t = u.complete .keyNotReady) := by
  cases hk : s.keyValid with
  | true => exact .inl ⟨rfl, by rwa [requireKey_of_key hk] at h⟩
  | false =>
    rw [requireKey_of_noKey hk] at h
    exact .inr ⟨rfl, by injection h with h; exact h.symm⟩

/-- A single-step command replaces DATA and completes. -/
theorem stepData_eq_next {f : StateMatrix → StateMatrix} {s t : State} :
    stepData f s = .next t ↔ t = (s.withData (blockOf (f (stateOf s.data)))).complete .noError := finish_eq_next

/-! ### The bus -/

/-- A read is an error reply, a fresh value while busy, or the exact word. -/
theorem busRead_cases (s : State) (a : BitVec 18) (size : Nat) :
    (s.admitted a size = none ∧ busRead s a size = ⟨true, 0, s⟩) ∨
    (∃ t, s.admitted a size = some t ∧ s.busy = true ∧ exactWhileBusy t = false ∧
      busRead s a size = ⟨false, Config.busyRead s.draws, { s with draws := s.draws + 1 }⟩) ∨
    (∃ t, s.admitted a size = some t ∧ (s.busy = false ∨ exactWhileBusy t = true) ∧
      busRead s a size = ⟨false, s.readTarget t, s⟩) := by
  cases h : s.admitted a size with
  | none => exact .inl ⟨rfl, by simp [busRead, h, busErrorReply]⟩
  | some t =>
    cases hb : s.busy <;> cases hx : exactWhileBusy t <;> simp [busRead, h, hb, hx]

/-- A write is an error reply, dropped while busy, or the target's effect. -/
theorem busWrite_cases (s : State) (a : BitVec 18) (size : Nat) (v : Word) :
    (s.admitted a size = none ∧ busWrite s a size v = ⟨true, 0, s⟩) ∨
    (∃ t, s.admitted a size = some t ∧ s.busy = true ∧
      busWrite s a size v = ⟨false, 0, { s with wdrop := true }⟩) ∨
    (∃ t, s.admitted a size = some t ∧ s.busy = false ∧ busWrite s a size v = ⟨false, 0, s.writeTarget v t⟩) := by
  cases h : s.admitted a size with
  | none => exact .inl ⟨rfl, by simp [busWrite, h, busErrorReply]⟩
  | some t => cases hb : s.busy <;> simp [busWrite, h, hb]

/-- STATUS is admitted in every build. -/
@[simp] theorem admitted_regStatus (s : State) : s.admitted regStatus 4 = some .status := rfl

/-- CMD is admitted in every build. -/
@[simp] theorem admitted_regCmd (s : State) : s.admitted regCmd 4 = some .cmd := rfl

/-- OUT_LEN is admitted in every build. -/
@[simp] theorem admitted_regOutLen (s : State) : s.admitted regOutLen 4 = some .outLen := rfl

/-- A read of STATUS is always exact and changes nothing. -/
@[simp] theorem busRead_regStatus (s : State) : busRead s regStatus 4 = ⟨false, s.statusWord, s⟩ := by
  simp [busRead, exactWhileBusy, State.readTarget]

/-- A read of OUT_LEN is never an error, and at most draws a free value. -/
theorem busRead_regOutLen (s : State) :
    ∃ (v : Word) (d : Nat), busRead s regOutLen 4 = ⟨false, v, { s with draws := d }⟩ ∧
      (s.busy = false → v = s.outLen) := by
  cases hb : s.busy
  · exact ⟨s.outLen, s.draws, by simp [busRead, hb, State.readTarget], fun _ => rfl⟩
  · exact ⟨Config.busyRead s.draws, s.draws + 1, by simp [busRead, hb, exactWhileBusy], by simp⟩

/-- Every read of a result is a word of the OUT window. -/
theorem mem_resultReads {m n : Nat} {op : HostOp} (h : op ∈ resultReads m n) :
    ∃ j, j < 4 * m ∧ op = .read (wordAddr baseOut j) 4 none := by
  simp only [resultReads, List.mem_map, List.mem_range] at h
  obtain ⟨j, hj, rfl⟩ := h
  exact ⟨j, by omega, rfl⟩

/-- Going on from a reply: a fault exactly for an error response. -/
theorem afterReply_cases (r : BusReply) (a : BitVec 18) (size : Nat) (u : State) :
    (r.error = true ∧ afterReply r a size u = .fault (.busError a size)) ∨
    (r.error = false ∧ afterReply r a size u = .next u) := by
  cases h : r.error <;> simp [afterReply, h]

/-! ### What a write never touches -/

@[simp] theorem State.writeTarget_keyValid (s : State) (v : Word) (t : BusTarget) :
    (s.writeTarget v t).keyValid = s.keyValid := by cases t <;> simp only [State.writeTarget, State.accept_keyValid]

@[simp] theorem State.writeTarget_nr (s : State) (v : Word) (t : BusTarget) :
    (s.writeTarget v t).nr = s.nr := by cases t <;> simp only [State.writeTarget, State.accept_nr]

@[simp] theorem State.writeTarget_outLen (s : State) (v : Word) (t : BusTarget) :
    (s.writeTarget v t).outLen = s.outLen := by cases t <;> simp only [State.writeTarget, State.accept_outLen]

@[simp] theorem State.writeTarget_gfP (s : State) (v : Word) (t : BusTarget) :
    (s.writeTarget v t).gfP = s.gfP := by cases t <;> simp only [State.writeTarget, State.accept_gfP]

@[simp] theorem State.writeTarget_maxBlocks (s : State) (v : Word) (t : BusTarget) :
    (s.writeTarget v t).maxBlocks = s.maxBlocks := by cases t <;> simp only [State.writeTarget, State.accept_maxBlocks]

@[simp] theorem State.writeTarget_rk (s : State) (v : Word) (t : BusTarget) :
    (s.writeTarget v t).rk = s.rk := by cases t <;> simp only [State.writeTarget, State.accept_rk]

@[simp] theorem State.writeTarget_outBuf (s : State) (v : Word) (t : BusTarget) :
    (s.writeTarget v t).outBuf = s.outBuf := by cases t <;> simp only [State.writeTarget, State.accept_outBuf]

@[simp] theorem State.writeTarget_program (s : State) (v : Word) (t : BusTarget) :
    (s.writeTarget v t).program = s.program := by cases t <;> simp only [State.writeTarget, State.accept_program]

@[simp] theorem State.writeTarget_reads (s : State) (v : Word) (t : BusTarget) :
    (s.writeTarget v t).reads = s.reads := by cases t <;> simp only [State.writeTarget, State.accept_reads]

@[simp] theorem State.writeTarget_schedule (s : State) (v : Word) (t : BusTarget) :
    (s.writeTarget v t).schedule = s.schedule := by cases t <;> simp only [State.writeTarget, State.accept_schedule]

@[simp] theorem State.writeTarget_resets (s : State) (v : Word) (t : BusTarget) :
    (s.writeTarget v t).resets = s.resets := by cases t <;> simp only [State.writeTarget, State.accept_resets]

@[simp] theorem State.writeTarget_draws (s : State) (v : Word) (t : BusTarget) :
    (s.writeTarget v t).draws = s.draws := by cases t <;> simp only [State.writeTarget, State.accept_draws]

/-! ### The agents -/

/-- With a command in flight that decodes, the Engine's step is exec of it. -/
theorem engineStep_of_command {s : State} {w : Word} {i : Instr} (hp : s.pend = some w)
    (hd : decode w = .command i) : engineStep s = exec i s := by simp [engineStep, hp, hd]

/-- With an illegal word in flight, the Engine's step completes it with code 4. -/
theorem engineStep_of_illegal {s : State} {w : Word} {why : IllegalReason} (hp : s.pend = some w)
    (hd : decode w = .illegal why) : engineStep s = .next (s.complete .illegalCommand) := by
  simp [engineStep, hp, hd, completeIllegal, raise]

/-- With no command in flight, the Engine's turn passes. -/
theorem engineStep_of_idle {s : State} (hp : s.pend = none) : engineStep s = .next s := by
  simp [engineStep, hp]

/-- A Host whose program has ended does nothing. -/
theorem hostStep_of_ended {s : State} (hp : s.program = []) : hostStep s = .next s := by simp [hostStep, hp]

/-- A Host with a line left performs it. -/
theorem hostStep_of_line {s : State} {op : HostOp} {rest : List HostOp} (hp : s.program = op :: rest) :
    hostStep s = performOp s rest op := by simp [hostStep, hp]

/-- What a Host step does when it does not fault: to the core nothing, or WDROP set by a dropped write, or the effect of
one admitted write while idle; and the Host's own data move on. -/
theorem hostStep_eq_next {s t : State} (h : hostStep s = .next t) :
    ∃ (u : State) (p : List HostOp) (r : List ReadResult) (d : Nat),
      t = { u with program := p, reads := r, draws := d } ∧
      (u = s ∨ u = { s with wdrop := true } ∨
        ∃ (a : BitVec 18) (v : Word) (g : BusTarget),
          s.admitted a 4 = some g ∧ s.busy = false ∧ u = s.writeTarget v g) := by
  unfold hostStep at h
  split at h
  · injection h with h; subst h; exact ⟨s, _, _, _, rfl, .inl rfl⟩
  · rename_i op rest hq
    cases op with
    | write a size v =>
      rcases busWrite_cases s a size v with ⟨_, e⟩ | ⟨_, _, _, e⟩ | ⟨g, hg, hb, e⟩
      · simp [performOp, e, afterReply] at h
      · simp only [performOp, e, afterReply, Bool.false_eq_true, if_false] at h
        injection h with h; subst h; exact ⟨_, _, _, _, rfl, .inr (.inl rfl)⟩
      · simp only [performOp, e, afterReply, Bool.false_eq_true, if_false] at h
        injection h with h
        have hs : size = 4 := by
          unfold State.admitted at hg
          split at hg
          · cases hg
          · rename_i hz; simpa using (not_or.mp hz).2
        subst hs; subst h
        exact ⟨_, _, _, _, rfl, .inr (.inr ⟨a, v, g, hg, hb, rfl⟩)⟩
    | read a size x =>
      rcases busRead_cases s a size with ⟨_, e⟩ | ⟨_, _, _, _, e⟩ | ⟨_, _, _, e⟩
      · simp [performOp, e, afterReply] at h
      · simp [performOp, e, afterReply] at h; subst h; exact ⟨s, _, _, _, rfl, .inl rfl⟩
      · simp [performOp, e, afterReply] at h; subst h; exact ⟨s, _, _, _, rfl, .inl rfl⟩
    | onSuccess n =>
      simp only [performOp, busRead_regStatus, afterReply, Bool.false_eq_true, if_false] at h
      injection h with h; subst h; exact ⟨s, _, _, _, rfl, .inl rfl⟩
    | readResult =>
      obtain ⟨v, d, e, _⟩ := busRead_regOutLen s
      simp only [performOp, e, afterReply, Bool.false_eq_true, if_false] at h
      injection h with h; subst h; exact ⟨s, _, _, _, rfl, .inl rfl⟩
    | wait => simp [performOp, afterReply] at h; split at h <;> subst h <;> exact ⟨s, _, _, _, rfl, .inl rfl⟩
    | check => simp [performOp, afterReply] at h; subst h; exact ⟨s, _, _, _, rfl, .inl rfl⟩

/-- A step is the Host's, the Engine's or a reset event, on the state with the turn used up. -/
theorem step_cases (s : State) :
    (s.nextTurn = .host ∧ step s = hostStep s.spendTurn) ∨
    (s.nextTurn = .engine ∧ step s = engineStep s.spendTurn) ∨
    (s.nextTurn = .reset ∧ step s = .next s.spendTurn.resetEvent) := by
  cases h : s.nextTurn <;> simp [step, takeTurn, h]

end Sys2Proof.Machine
end

