-- ==== Sys2Proof/Laws/PerInstr.lean ====
section
/-! SUPPORT. Statements made for every command, one lemma for each constructor. -/

namespace Sys2Proof.Laws.CommandWord

/-- The command word of `i` has 0 in its reserved bits, its opcode in OP, and 0 in RND unless it is ADD_ROUND_KEY (R80, R23). -/
def Statement (i : Instr) : Prop :=
  cmdReservedHigh (encode i) = 0 ∧ cmdReservedLow (encode i) = 0 ∧ cmdOp (encode i) = opcodeOf i ∧
    cmdRnd (encode i) = rndFieldOf i

/-- The fields of a word put together from its fields are those fields. -/
theorem fields_of_append (r : BitVec 4) (o : BitVec 6) :
    cmdReservedHigh (0#20 ++ r ++ 0#2 ++ o) = 0 ∧ cmdReservedLow (0#20 ++ r ++ 0#2 ++ o) = 0 ∧
      cmdOp (0#20 ++ r ++ 0#2 ++ o) = o ∧ cmdRnd (0#20 ++ r ++ 0#2 ++ o) = r := by
  revert r o; decide +kernel

theorem of_fields (i : Instr) : Statement i := fields_of_append (rndFieldOf i) (opcodeOf i)

theorem nop : Statement .nop := of_fields _
theorem keyExpand : Statement .keyExpand := of_fields _
theorem blockEnc : Statement .blockEnc := of_fields _
theorem blockDec : Statement .blockDec := of_fields _
theorem cbcEnc : Statement .cbcEnc := of_fields _
theorem cbcDec : Statement .cbcDec := of_fields _
theorem pad : Statement .pad := of_fields _
theorem unpad : Statement .unpad := of_fields _
theorem gfMul : Statement .gfMul := of_fields _
theorem keyClear : Statement .keyClear := of_fields _
theorem subBytes : Statement .subBytes := of_fields _
theorem invSubBytes : Statement .invSubBytes := of_fields _
theorem shiftRows : Statement .shiftRows := of_fields _
theorem invShiftRows : Statement .invShiftRows := of_fields _
theorem mixColumns : Statement .mixColumns := of_fields _
theorem invMixColumns : Statement .invMixColumns := of_fields _
theorem addRoundKey (rnd : Nat) : Statement (.addRoundKey rnd) := of_fields _

end Sys2Proof.Laws.CommandWord
end

