-- ==== Sys2Proof/Tests/Slice0.lean ====
section
/-! SUPPORT. Tests: command words written out from the encoding, one step of each command with the spec's own numbers
(95_test_vectors.md), and for each statement with hypotheses a state that meets them. -/

namespace Sys2Proof.Tests

-- One test at a time: checked at once, each would wait in a thread of its own, with a stack of its own.
set_option Elab.async false

open Sys2Proof.Machine

/-! ### Helpers -/

/-- The state a command left, if it left one. -/
def after : Host.Outcome State Fault Refusal → Option State
  | .next s => some s
  | .fault _ => none
  | .refused _ => none

/-- The `n` bytes written in hex, byte 0 first (R68). -/
def hexBytes (n v : Nat) : List Byte := (List.range n).map fun i => BitVec.ofNat 8 (v >>> (8 * (n - 1 - i)))

/-- The block written in hex, byte 0 first (R68). -/
def hexBlock (v : Nat) : Block := Vector.ofFn fun i => BitVec.ofNat 8 (v >>> (8 * (15 - i.val)))

/-- The round keys of the KAT key (V3), and zeros beyond them (R31). -/
def katRoundKeys : List Byte :=
  hexBytes 16 0x2b7e151628aed2a6abf7158809cf4f3c ++ hexBytes 16 0xa0fafe1788542cb123a339392a6c7605
    ++ hexBytes 16 0xf2c295f27a96b9435935807a7359f67f ++ hexBytes 16 0x3d80477d4716fe3e1e237e446d7a883b
    ++ hexBytes 16 0xef44a541a8525b7fb671253bdb0bad00 ++ hexBytes 16 0xd4d1c6f87c839d87caf2b8bc11f915bc
    ++ hexBytes 16 0x6d88a37a110b3efddbf98641ca0093fd ++ hexBytes 16 0x4e54f70e5f5fc9f384a64fb24ea6dc4f
    ++ hexBytes 16 0xead27321b58dbad2312bf5607f8d292f ++ hexBytes 16 0xac7766f319fadc2128d12941575c006e
    ++ hexBytes 16 0xd014f9a8c9ee2589e13f0cc8b6630ca6

/-- After reset with KEYLEN = `n` and the KAT key in KEY. -/
def keyed (n : Byte) : State :=
  { State.reset with
    keyLen := n
    key := Vector.ofFn fun i => (hexBytes 16 0x2b7e151628aed2a6abf7158809cf4f3c).getD i.val 0 }

/-- The same with the KAT key expanded (V3), and a block in DATA. -/
def ready (data : Nat) : State :=
  { keyed 16 with
    keyValid := true
    nr := 10
    rk := Vector.ofFn fun i => katRoundKeys.getD i.val 0
    data := hexBlock data }

/-- A state with a message in IN and its length in IN_LEN. -/
def withMessage (s : State) (bs : List Byte) : State :=
  { s with inBuf := Memory.write [] 0 bs, inLen := BitVec.ofNat 32 bs.length }

/-- A state with only a length in IN_LEN, no byte of IN written. -/
def withLength (s : State) (n : Nat) : State := { s with inLen := BitVec.ofNat 32 n }

/-- The first `n` bytes of OUT. -/
def outBytes (s : State) (n : Nat) : List Byte := (List.range n).map s.outByte

/-! ### Command words, written out field by field from R80 and R82 -/

theorem test_decode_nop : decode 0b00000000000000000000_0000_00_000000 = .command .nop := by decide
theorem test_decode_keyExpand : decode 0b00000000000000000000_0000_00_000001 = .command .keyExpand := by decide
theorem test_decode_blockEnc : decode 0b00000000000000000000_0000_00_000010 = .command .blockEnc := by decide
theorem test_decode_blockDec : decode 0b00000000000000000000_0000_00_000011 = .command .blockDec := by decide
theorem test_decode_cbcEnc : decode 0b00000000000000000000_0000_00_000100 = .command .cbcEnc := by decide
theorem test_decode_cbcDec : decode 0b00000000000000000000_0000_00_000101 = .command .cbcDec := by decide
theorem test_decode_pad : decode 0b00000000000000000000_0000_00_000110 = .command .pad := by decide
theorem test_decode_unpad : decode 0b00000000000000000000_0000_00_000111 = .command .unpad := by decide
theorem test_decode_gfMul : decode 0b00000000000000000000_0000_00_001000 = .command .gfMul := by decide
theorem test_decode_keyClear : decode 0b00000000000000000000_0000_00_001001 = .command .keyClear := by decide
theorem test_decode_subBytes : decode 0b00000000000000000000_0000_00_010000 = .command .subBytes := by decide
theorem test_decode_invSubBytes : decode 0b00000000000000000000_0000_00_010001 = .command .invSubBytes := by decide
theorem test_decode_shiftRows : decode 0b00000000000000000000_0000_00_010010 = .command .shiftRows := by decide
theorem test_decode_invShiftRows : decode 0b00000000000000000000_0000_00_010011 = .command .invShiftRows := by decide
theorem test_decode_mixColumns : decode 0b00000000000000000000_0000_00_010100 = .command .mixColumns := by decide
theorem test_decode_invMixColumns : decode 0b00000000000000000000_0000_00_010101 = .command .invMixColumns := by decide
theorem test_decode_addRoundKey : decode 0b00000000000000000000_1010_00_010110 = .command (.addRoundKey 10) := by decide

/-- Each case of R85, at the edges of its range (V14). -/
theorem test_decode_illegal :
    decode 0x00000100 = .illegal .roundNotAllowed ∧ decode 0x0000000A = .illegal .unassignedOp ∧
    decode 0x0000000F = .illegal .unassignedOp ∧ decode 0x00000017 = .illegal .unassignedOp ∧
    decode 0x0000003F = .illegal .unassignedOp ∧ decode 0x00000040 = .illegal .reservedBits ∧
    decode 0x80000002 = .illegal .reservedBits ∧ decode 0x00001016 = .illegal .reservedBits := by decide

/-- A round index that does not fit its field is not well formed (R89), and every other command is. -/
theorem test_wellFormed_refuses :
    (Instr.addRoundKey 16).wellFormed = false ∧ (Instr.addRoundKey 15).wellFormed = true ∧
    Instr.nop.wellFormed = true ∧ assembleLine (.cmd (.addRoundKey 16)) = none := by decide

/-- `CMD ADD_ROUND_KEY, 10` is the word 0x00000A16 (R84). -/
theorem test_assemble_addRoundKey : assembleLine (.cmd (.addRoundKey 10)) = some (.write 0x000 4 0x00000A16) := by decide

/-! ### One step of each command, numbers from 95_test_vectors.md -/

/-- R242: after a failed UNPAD (STATUS 0x30), NOP leaves STATUS 0. -/
theorem test_nop_clears_error :
    (after (exec .nop { State.reset with err := .paddingValidation })).map State.statusWord = some 0 := by decide

/-- V3: the round keys of the KAT key, and STATUS. -/
theorem test_keyExpand_kat :
    (after (exec .keyExpand (keyed 16))).map (fun t => (t.rk.toList, t.statusWord)) =
      some (katRoundKeys ++ List.replicate 64 0, 0x00000A02) := by decide +kernel

/-- V7: a key length of 17 fails, and the old key is dropped. -/
theorem test_keyExpand_bad_length :
    (after (exec .keyExpand { ready 0 with keyLen := 17 })).map (fun t => (wordAt t.rk 0, t.statusWord)) =
      some (0, 0x00000010) := by decide +kernel

/-- V1: the document's known answer. -/
theorem test_blockEnc_kat :
    (after (exec .blockEnc (ready 0x6bc1bee22e409f96e93d7e117393172a))).map State.data =
      some (hexBlock 0x3ad77bb40d7a3660a89ecaf32466ef97) := by decide +kernel

/-- V14: without a key, code 5. -/
theorem test_blockEnc_no_key : (after (exec .blockEnc State.reset)).map State.statusWord = some 0x00000050 := by
  decide +kernel

/-- V2: the known answer decrypted. -/
theorem test_blockDec_kat :
    (after (exec .blockDec (ready 0x3ad77bb40d7a3660a89ecaf32466ef97))).map State.data =
      some (hexBlock 0x6bc1bee22e409f96e93d7e117393172a) := by decide +kernel

/-- V10: CBC_ENC of the KAT block with a zero IV. -/
theorem test_cbcEnc_kat :
    (after (exec .cbcEnc (withMessage (ready 0) (hexBytes 16 0x6bc1bee22e409f96e93d7e117393172a)))).map
      (fun t => (outBytes t 32, t.outLen)) =
    some (hexBytes 32 0x3ad77bb40d7a3660a89ecaf32466ef974b0673d23da20679744afa8e3d589236, 32) := by decide +kernel

/-- V13: with IN_LEN = 16384 the padded message does not fit. -/
theorem test_cbcEnc_overflow :
    (after (exec .cbcEnc (withLength (ready 0) 16384))).map State.statusWord = some 0x00000A62 := by decide +kernel

/-- R223: the ciphertext of V10 decrypted, with the padding left above OUT_LEN. -/
theorem test_cbcDec_kat :
    (after (exec .cbcDec (withMessage (ready 0)
      (hexBytes 32 0x3ad77bb40d7a3660a89ecaf32466ef974b0673d23da20679744afa8e3d589236)))).map
      (fun t => (outBytes t 32, t.outLen)) =
    some (hexBytes 16 0x6bc1bee22e409f96e93d7e117393172a ++ List.replicate 16 0x10, 16) := by decide +kernel

/-- V13: 16385 is no multiple of 16, which comes before the overflow; 16400 overflows; with no key, code 5 comes first. -/
theorem test_cbcDec_lengths :
    (after (exec .cbcDec (withLength (ready 0) 16385))).map State.statusWord = some 0x00000A22 ∧
    (after (exec .cbcDec (withLength (ready 0) 16400))).map State.statusWord = some 0x00000A62 ∧
    (after (exec .cbcDec (withLength State.reset 7))).map State.statusWord = some 0x00000050 := by decide +kernel

/-- V12: PAD of `414243`. -/
theorem test_pad_three :
    (after (exec .pad (withMessage State.reset (hexBytes 3 0x414243)))).map (fun t => (outBytes t 16, t.outLen)) =
      some (hexBytes 16 0x4142430d0d0d0d0d0d0d0d0d0d0d0d0d, 16) := by decide +kernel

/-- V12: a message of 16 bytes gets a full extra block. -/
theorem test_pad_full_block :
    (after (exec .pad (withMessage State.reset (List.replicate 16 0x41)))).map (fun t => (outBytes t 32, t.outLen)) =
      some (List.replicate 16 0x41 ++ List.replicate 16 0x10, 32) := by decide +kernel

/-- V12: 16 × 55, 4 × 04: the length need not be a multiple of 16. -/
theorem test_unpad_twenty :
    (after (exec .unpad (withMessage State.reset (List.replicate 16 0x55 ++ List.replicate 4 0x04)))).map
      (fun t => (outBytes t 20, t.outLen)) = some (List.replicate 16 0x55 ++ List.replicate 4 0x04, 16) := by
  decide +kernel

/-- V12: the bound on the count is 16, a count of 0 is invalid, and so is padding that is not uniform. -/
theorem test_unpad_invalid :
    (after (exec .unpad (withMessage State.reset (List.replicate 18 0x11)))).map State.statusWord = some 0x30 ∧
    (after (exec .unpad (withMessage State.reset (List.replicate 15 0x41 ++ [0x00])))).map State.statusWord = some 0x30 ∧
    (after (exec .unpad (withMessage State.reset (hexBytes 16 0x4142430d0d0d0d0d0d0d0d0d0d0d0d0c)))).map State.statusWord =
      some 0x30 := by decide +kernel

/-- V5: 57 · 83 = C1. -/
theorem test_gfMul_example :
    (after (exec .gfMul { State.reset with gfA := 0x57, gfB := 0x83 })).map (State.readTarget · .gfRes) =
      some 0x000000C1 := by decide +kernel

/-- V5: FF · FF = 13. -/
theorem test_gfMul_top :
    (after (exec .gfMul { State.reset with gfA := 0xFF, gfB := 0xFF })).map (State.readTarget · .gfRes) =
      some 0x00000013 := by decide +kernel

/-- R137: after V3's KEY_EXPAND, KEY_CLEAR leaves STATUS 0 and RK0 0; KEYLEN stays. -/
theorem test_keyClear :
    (after (exec .keyClear (ready 0))).map (fun t => (t.statusWord, wordAt t.rk 0, wordAt t.key 0, t.keyLen)) =
      some (0, 0, 0, 16) := by decide +kernel

/-- V9, round 1. -/
theorem test_subBytes_round1 :
    (after (exec .subBytes (ready 0x193de3bea0f4e22b9ac68d2ae9f84808))).map State.data =
      some (hexBlock 0xd42711aee0bf98f1b8b45de51e415230) := by decide +kernel

/-- V9, round 1 read right to left. -/
theorem test_invSubBytes_round1 :
    (after (exec .invSubBytes (ready 0xd42711aee0bf98f1b8b45de51e415230))).map State.data =
      some (hexBlock 0x193de3bea0f4e22b9ac68d2ae9f84808) := by decide +kernel

/-- V16. -/
theorem test_shiftRows_indexes :
    (after (exec .shiftRows (ready 0x000102030405060708090a0b0c0d0e0f))).map State.data =
      some (hexBlock 0x00050a0f04090e03080d02070c01060b) := by decide +kernel

/-- V16. -/
theorem test_invShiftRows_indexes :
    (after (exec .invShiftRows (ready 0x000102030405060708090a0b0c0d0e0f))).map State.data =
      some (hexBlock 0x000d0a0704010e0b0805020f0c090603) := by decide +kernel

/-- The second rows of `M` and `Mi`, as R166 and R167 print them: a row turned the other way would differ. -/
theorem test_matrix_second_rows :
    mixMatrix[1].toList = [0x01, 0x02, 0x03, 0x01] ∧ invMixMatrix[1].toList = [0x09, 0x0e, 0x0b, 0x0d] := by decide

/-- V8, four of its columns. -/
theorem test_mixColumns_columns :
    (after (exec .mixColumns (ready 0xdb135345f20a225cd4d4d4d501000000))).map State.data =
      some (hexBlock 0x8e4da1bc9fdc589dd5d5d7d602010103) := by decide +kernel

/-- V8, the same columns back. -/
theorem test_invMixColumns_columns :
    (after (exec .invMixColumns (ready 0x8e4da1bc9fdc589dd5d5d7d602010103))).map State.data =
      some (hexBlock 0xdb135345f20a225cd4d4d4d501000000) := by decide +kernel

/-- R188's example: the word 0x00000116 with the KAT key. -/
theorem test_addRoundKey_round1 :
    (after (exec (.addRoundKey 1) (ready 0x046681e5e0cb199a48f8d37a2806264c))).map State.data =
      some (hexBlock 0xa49c7ff2689f352b6b5bea43026a5049) := by decide +kernel

/-- V14: RND = 11 with NR = 10 ends with code 7, DATA unchanged; with no key, code 5 comes first. -/
theorem test_addRoundKey_checks :
    (after (exec (.addRoundKey 11) (ready 7))).map (fun t => (t.statusWord, t.data)) = some (0x00000A72, hexBlock 7) ∧
    (after (exec (.addRoundKey 15) State.reset)).map State.statusWord = some 0x00000050 := by decide +kernel

/-! ### The bus and the agents -/

/-- R55: the KAT key as bus words. -/
theorem test_key_words :
    [wordAt (keyed 16).key 0, wordAt (keyed 16).key 4, wordAt (keyed 16).key 8, wordAt (keyed 16).key 12] =
      [0x16157E2B, 0xA6D2AE28, 0x8815F7AB, 0x3C4FCF09] := by decide +kernel

/-- V15 rows 1 to 5: misaligned, the holes, and the end of IN with MAX_BLOCKS = 1024. -/
theorem test_bus_errors :
    [(0x002 : BitVec 18), 0x060, 0x1F0, 0x14000, 0x30000].all (fun a => (busRead State.reset a 4).error) = true := by
  decide +kernel

/-- R54: a bus access of one byte is an error, even to CMD. -/
theorem test_bus_error_size : busWrite State.reset 0x000 1 0 = ⟨true, 0, State.reset⟩ := rfl

/-- V15 row 8: a write while busy is dropped, and STATUS reads 0x00000A07. -/
theorem test_write_while_busy :
    (busWrite { ready 0 with pend := some 2 } 0x050 4 0x22222222).state.statusWord = 0x00000A07 := by decide +kernel

/-- V15 row 11: KEYLEN keeps bits 7:0 only. -/
theorem test_keyLen_reserved : (busWrite State.reset 0x008 4 0x110).state.readTarget .keyLen = 0x00000010 := by decide

/-- V15 row 12: a reset while busy leaves no command in flight, and STATUS 0. -/
theorem test_reset_while_busy :
    (after (step { ready 0 with pend := some 2, schedule := [.reset] })).map (fun t => (t.pend, t.statusWord)) =
      some (none, 0) := by decide +kernel

/-- A word placed after reset runs on the next step: GF_MUL of 0 and 0 leaves BUSY 0 and ERR 0, an illegal word ERR 4. -/
theorem test_placed_word_runs :
    (after (step (State.reset.withFetchWord 32 0x00000008))).map State.statusWord = some 0 ∧
    (after (step (State.reset.withFetchWord 32 0x0000003F))).map State.statusWord = some 0x00000040 := by decide +kernel

/-- R90, R92: a WAIT while busy is still the next line after the Host's step, and is done once idle. -/
theorem test_wait :
    (after (step { State.reset with pend := some 0, program := [.wait], schedule := [.host] })).map State.program =
      some [.wait] ∧
    (after (step { State.reset with program := [.wait] })).map State.program = some [] := by decide +kernel

/-- R92: a CMD line of the Host's program puts its word in flight. -/
theorem test_host_issues_command :
    (after (step { State.reset with program := [.write 0x000 4 0x00000A16] })).map State.pend =
      some (some 0x00000A16) := by decide +kernel

/-- R93: after an error the result is not read, and KEY_CLEAR is the next line; without one it is. -/
theorem test_onSuccess :
    (after (step { State.reset with err := .lengthOverflow, program := [.onSuccess 1, .readResult, .wait] })).map
      State.program = some [.wait] ∧
    (after (step { State.reset with program := [.onSuccess 1, .readResult, .wait] })).map State.program =
      some [.readResult, .wait] := by decide +kernel

/-- R91: a result of 5 bytes is read in two words, an empty one (after an error) in none, and none is beyond OUT. -/
theorem test_readResult :
    (after (step { State.reset with outLen := 5, program := [.readResult, .wait] })).map State.program =
      some [.read 0x20000 4 none, .read 0x20004 4 none, .wait] ∧
    (after (step { State.reset with err := .lengthOverflow, program := [.readResult, .wait] })).map State.program =
      some [.wait] ∧
    (resultReads 626 0xFFFFFFFF).length = 2504 := by decide +kernel

/-- R93: a key of 20 bytes, or of 272 (whose low 8 bits are 16), is reported by KEY_EXPAND: KEYLEN is no legal length. -/
theorem test_keyExpand_lines_bad_length :
    keyOperandLines (List.replicate 20 1) = [.wr regKeyLen 20] ∧
    keyOperandLines (List.replicate 272 1) = [.wr regKeyLen 255] ∧
    (keyExpandLines (List.replicate 24 1)).length = 1 + 6 + 3 + 52 := by decide +kernel

/-! ### Witnesses: for each statement with hypotheses, a state and operands that meet them -/

/-- A command in flight, with the KAT key expanded. -/
def inFlight : State := { ready 0 with pend := some 0x00000002 }

/-- A build of `m` blocks with the KAT key expanded and IN_LEN = `n`. -/
def sized (m n : Nat) : State := withLength { ready 0 with maxBlocks := m } n

theorem witness_DecodeOfEncodeIsTheCommand : (Instr.addRoundKey 15).wellFormed = true := by decide

theorem witness_DecodedWordsAreEncodings : decode 0x00000F16 = .command (.addRoundKey 15) := by decide

theorem witness_MatchAndMaskDecideTheCommand :
    (∀ r, Instr.keyClear ≠ .addRoundKey r) ∧
    (0x00000F16 : Word) &&& maskOf (.addRoundKey 3) = matchOf (.addRoundKey 3) ∧
    (0x00000F16 : Word) &&& maskOf (.addRoundKey 5) = matchOf (.addRoundKey 5) := by
  exact ⟨fun _ => Instr.noConfusion, by decide, by decide⟩

theorem witness_IllegalWordsAreExactlyThese :
    State.reset.pend = none ∧ (∃ why, decode 0x0000000A = .illegal why) ∧ (∃ why, decode 0x0000003F = .illegal why) ∧
    (∃ why, decode 0x00000101 = .illegal why) ∧ (∃ why, decode 0x80000000 = .illegal why) :=
  ⟨rfl, ⟨.unassignedOp, by decide⟩, ⟨.unassignedOp, by decide⟩, ⟨.roundNotAllowed, by decide⟩, ⟨.reservedBits, by decide⟩⟩

theorem witness_StepRunsTheCommandInFlight :
    (inFlight.pend = some 0x00000002 ∧ decode 0x00000002 = .command .blockEnc ∧ inFlight.schedule = []) ∧
    ({ inFlight with schedule := [.engine, .host] } : State).schedule.head? = some .engine ∧
    decodeTableWord 32 0x00000F16 = some (.addRoundKey 15) := by
  exact ⟨⟨rfl, by decide, rfl⟩, rfl, by decide⟩

theorem witness_NopClearsErrorAndDropOnly : State.reset.pend = none := rfl

theorem witness_KeyExpandStoresOrDropsTheKey :
    (keyed 16).keyLen.toNat = 16 ∧ (keyed 24).keyLen.toNat = 24 ∧ (keyed 32).keyLen.toNat = 32 ∧
    ∀ n ∈ [(0 : Byte), 15, 17, 23, 25, 31, 33, 255],
      (keyed n).keyLen.toNat ≠ 16 ∧ (keyed n).keyLen.toNat ≠ 24 ∧ (keyed n).keyLen.toNat ≠ 32 := by
  refine ⟨rfl, rfl, rfl, ?_⟩
  simp [keyed]

theorem witness_BlockCommandsTransformData : (ready 0).keyValid = true ∧ State.reset.keyValid = false := ⟨rfl, rfl⟩

theorem witness_AddRoundKeyXorsTheRoundKey :
    (ready 0).keyValid = true ∧ 0 ≤ (ready 0).nr.toNat ∧ 10 ≤ (ready 0).nr.toNat ∧ (ready 0).nr.toNat < 11 ∧
    State.reset.keyValid = false := by decide

theorem witness_PadWritesThePaddedMessage :
    ∀ m ∈ [626, 4096],
      ((sized m (16 * m - 1)).CapacityLegal ∧ (sized m (16 * m - 1)).inLen.toNat ≤ 16 * m - 1) ∧
      ((sized m (16 * m)).CapacityLegal ∧ 16 * m - 1 < (sized m (16 * m)).inLen.toNat) ∧
      (sized m 0).CapacityLegal := by
  simp [sized, withLength, State.CapacityLegal, Config.minBlocks, Config.maxBlocksLimit]

theorem witness_UnpadStripsValidPadding :
    let s : State := { sized 626 10016 with inBuf := [(10015, 1)] }
    (s.CapacityLegal ∧ s.inLen.toNat ≤ 16 * s.maxBlocks ∧ unpadCheck s.message = some 1) ∧
    ((sized 626 0).CapacityLegal ∧ unpadCheck (sized 626 0).message = none) ∧
    ((sized 626 10017).CapacityLegal ∧ 16 * (sized 626 10017).maxBlocks < (sized 626 10017).inLen.toNat) := by
  refine ⟨⟨by decide, by decide, ?_⟩, ⟨by decide, by decide⟩, by decide, by decide⟩
  decide +kernel

theorem witness_CbcEncWritesTheCiphertext :
    ((sized 626 10015).CapacityLegal ∧ (sized 626 10015).keyValid = true ∧
      (sized 626 10015).inLen.toNat ≤ 16 * (sized 626 10015).maxBlocks - 1) ∧
    (State.reset.CapacityLegal ∧ State.reset.keyValid = false) ∧
    ((sized 626 10016).keyValid = true ∧ 16 * (sized 626 10016).maxBlocks - 1 < (sized 626 10016).inLen.toNat) ∧
    (List.replicate 16 (0x41 : Byte)).length / 16 + 1 = 2 ∧ 16 ≤ (List.replicate 16 (0x41 : Byte)).length := by
  decide

/-- The second block of V10, with the first as IV, decrypts to the padding block. -/
def paddingBlock : State :=
  { withMessage (ready 0) (hexBytes 16 0x4b0673d23da20679744afa8e3d589236) with
    iv := hexBlock 0x3ad77bb40d7a3660a89ecaf32466ef97 }

theorem witness_CbcDecWritesThePlaintext :
    (paddingBlock.CapacityLegal ∧ paddingBlock.keyValid = true ∧ paddingBlock.inLen.toNat = 16 ∧
      unpadCheck (cbcDecryptRaw paddingBlock.rk paddingBlock.nr.toNat paddingBlock.iv paddingBlock.message) = some 16) ∧
    State.reset.keyValid = false ∧
    ((sized 626 0).keyValid = true ∧ (sized 626 0).inLen.toNat = 0 ∧ (sized 626 17).inLen.toNat % 16 ≠ 0) ∧
    ((sized 626 10032).inLen.toNat % 16 = 0 ∧ 16 * (sized 626 10032).maxBlocks < (sized 626 10032).inLen.toNat) ∧
    unpadCheck (cbcDecryptRaw paddingBlock.rk paddingBlock.nr.toNat (Vector.replicate 16 0) paddingBlock.message) = none ∧
    0 < paddingBlock.message.length / 16 ∧ paddingBlock.message.length % 16 = 0 := by
  decide +kernel

theorem witness_CommandsEndOnlyWithTheirCodes :
    (∃ t, exec .cbcDec State.reset = .next t) ∧
    (∃ s t : State, ∃ why, s.pend = some 0x0000003F ∧ decode 0x0000003F = .illegal why ∧ engineStep s = .next t) :=
  ⟨⟨_, rfl⟩, State.reset.accept 0x0000003F, _, .unassignedOp, rfl, by decide, rfl⟩

theorem witness_CommandsLeaveTheirInputs : ∃ t, exec .keyClear (ready 0) = .next t := ⟨_, rfl⟩

theorem witness_EachRegisterHasItsWriters :
    Instr.nop ≠ .keyClear ∧ Instr.nop ≠ .keyExpand ∧ Instr.nop ≠ .gfMul ∧ Instr.nop ≠ .pad ∧ Instr.nop ≠ .unpad ∧
    Instr.nop ≠ .cbcEnc ∧ Instr.nop ≠ .cbcDec ∧ ∃ t, exec .nop (ready 0) = .next t := by
  refine ⟨by decide, by decide, by decide, by decide, by decide, by decide, by decide, _, rfl⟩

/-- One error of each row of R262; the padding error of CBC_DEC stands in the witness of CbcDecWritesThePlaintext. -/
theorem witness_ErrorsChangeOnlyWhatTheirRowSays :
    (∃ t, exec .keyExpand State.reset = .next t ∧ t.err ≠ .noError) ∧
    (∃ t, exec .pad (sized 626 10016) = .next t ∧ t.err ≠ .noError) ∧
    (∃ t, exec .unpad State.reset = .next t ∧ t.err ≠ .noError) ∧
    (∃ t, exec .cbcEnc State.reset = .next t ∧ t.err ≠ .noError) ∧
    (∃ t, exec .cbcDec State.reset = .next t ∧ t.err ≠ .noError) ∧
    (∃ t, exec .blockEnc State.reset = .next t ∧ t.err ≠ .noError) ∧
    (∃ t, exec (.addRoundKey 11) (ready 0) = .next t ∧ t.err ≠ .noError) ∧
    (∃ t, engineStep (State.reset.accept 0x0000000A) = .next t) := by
  refine ⟨⟨_, rfl, ?_⟩, ⟨_, rfl, ?_⟩, ⟨_, rfl, ?_⟩, ⟨_, rfl, ?_⟩, ⟨_, rfl, ?_⟩, ⟨_, rfl, ?_⟩, ⟨_, rfl, ?_⟩, _, rfl⟩ <;> decide

theorem witness_ErrorsAreReportedInOrder :
    (∃ t, exec .cbcDec (withLength State.reset 7) = .next t ∧ t.err = .keyNotReady) ∧
    (∃ t, exec .cbcDec (withLength (ready 0) 16385) = .next t ∧ t.err = .invalidCiphertextLength) ∧
    (∃ t, exec .cbcDec (withLength (ready 0) 16400) = .next t ∧ t.err = .lengthOverflow) ∧
    (∃ t, exec (.addRoundKey 15) State.reset = .next t ∧ t.err = .keyNotReady) ∧
    (∃ t, exec .unpad (withLength State.reset 16385) = .next t ∧ t.err = .lengthOverflow) ∧
    (∃ t, exec .pad (withLength State.reset 16384) = .next t ∧ t.err = .lengthOverflow) ∧
    (∃ t, exec .cbcEnc (withLength (ready 0) 16384) = .next t ∧ t.err = .lengthOverflow) ∧
    (∃ t, engineStep (State.reset.accept 0x80000002) = .next t ∧ t.err = .illegalCommand) := by
  exact ⟨⟨_, rfl, rfl⟩, ⟨_, rfl, rfl⟩, ⟨_, rfl, rfl⟩, ⟨_, rfl, rfl⟩, ⟨_, rfl, rfl⟩, ⟨_, rfl, rfl⟩, ⟨_, rfl, rfl⟩, _, rfl, rfl⟩

theorem witness_KeyClearForgetsTheKey :
    let s := ready 0
    let t : State := { s with key := Vector.replicate 32 0, rk := Vector.replicate 240 0, keyValid := false, nr := 0 }
    t = { s with key := t.key, rk := t.rk, keyValid := t.keyValid, nr := t.nr } := rfl

theorem witness_CommandWriteIsAcceptedWhenIdle : State.reset.pend = none ∧ inFlight.pend ≠ none := by
  exact ⟨rfl, by simp [inFlight]⟩

theorem witness_WritesWhileBusyAreDropped :
    (inFlight.pend ≠ none ∧ (0x23FFC : BitVec 18).toNat % 4 = 0 ∧ busTarget inFlight.maxBlocks 0x23FFC ≠ none) ∧
    ∃ s t : State, s.wdrop = true ∧ step s = .next t := by
  refine ⟨⟨by simp [inFlight], by decide, by decide⟩, { State.reset with wdrop := true }, _, rfl, rfl⟩

theorem witness_ReadsWhileBusyAreFree :
    (0x050 : BitVec 18).toNat % 4 = 0 ∧ busTarget inFlight.maxBlocks 0x050 = some (.data 0) ∧ inFlight.pend ≠ none ∧
    (ready 0).pend = none := by
  exact ⟨by decide, by decide, by simp [inFlight], rfl⟩

theorem witness_BusErrorsChangeNothing :
    (0x002 : BitVec 18).toNat % 4 ≠ 0 ∧ (1 : Nat) ≠ 4 ∧ busTarget State.reset.maxBlocks 0x060 = none := by decide

theorem witness_UnmappedAddressesAreTheHoles :
    (626 : Nat) ≤ 4096 ∧
    [(0x00060 : BitVec 18), 0x000FC, 0x001F0, 0x0FFFC, 0x12720, 0x1FFFC, 0x22720, 0x3FFFC].all
      (fun a => a.toNat % 4 == 0 && busTarget 626 a == none) = true ∧
    [(0x0005C : BitVec 18), 0x00100, 0x001EC, 0x10000, 0x1FFFC, 0x20000, 0x2FFFC].all
      (fun a => a.toNat % 4 == 0 && busTarget 4096 a != none) = true ∧
    (0x020 ≤ (0x03F : BitVec 18).toNat ∧ (0x03F : BitVec 18).toNat < 0x040) ∧
    (0x040 ≤ (0x040 : BitVec 18).toNat ∧ (0x040 : BitVec 18).toNat < 0x050) ∧
    (0x050 ≤ (0x05F : BitVec 18).toNat ∧ (0x05F : BitVec 18).toNat < 0x060) ∧
    (0x100 ≤ (0x1EF : BitVec 18).toNat ∧ (0x1EF : BitVec 18).toNat < 0x1F0) ∧
    (0x10000 ≤ (0x1271F : BitVec 18).toNat ∧ (0x1271F : BitVec 18).toNat < 0x10000 + 16 * 626) ∧
    (0x20000 ≤ (0x2FFFF : BitVec 18).toNat ∧ (0x2FFFF : BitVec 18).toNat < 0x20000 + 16 * 4096) := by decide

theorem witness_RegistersReadBackWhatWasWritten : State.reset.pend = none := rfl

theorem witness_WindowWritesAreLittleEndian : State.reset.pend = none ∧ 7 < 8 ∧ 3 < 4 := by decide

theorem witness_InputBufferReadsBackWhatWasWritten :
    (sized 4096 0).CapacityLegal ∧ (sized 4096 0).pend = none ∧ 16383 < 4 * (sized 4096 0).maxBlocks := by decide

theorem witness_ResultWindowsReadLittleEndian :
    (sized 626 0).CapacityLegal ∧ (sized 626 0).pend = none ∧ 3 < 4 ∧ 59 < 60 ∧ 2503 < 4 * (sized 626 0).maxBlocks := by
  decide

theorem witness_WritesToReadOnlyRegistersAreIgnored :
    (sized 626 0).pend = none ∧ 59 < 60 ∧ (sized 626 0).CapacityLegal ∧ 2503 < 4 * (sized 626 0).maxBlocks := by decide

theorem witness_HostStepsLeaveACommandInFlight :
    let s : State := { inFlight with program := [.write 0x050 4 0x22222222] }
    let u : State := { inFlight with program := [.readResult] }
    (s.pend ≠ none ∧ ∃ t, hostStep s = .next t) ∧ (u.pend ≠ none ∧ ∃ t, hostStep u = .next t) := by
  exact ⟨⟨by simp [inFlight], _, rfl⟩, by simp [inFlight], _, rfl⟩

theorem witness_HostLinesDoTheirBusSteps :
    let s (line : HostOp) : State := { State.reset with program := [line, .wait] }
    let busy (line : HostOp) : State := { inFlight with program := [line, .wait] }
    (2503 < min ((10016 + 3) / 4) (4 * 626) ∧ 3 < min ((16 + 3) / 4) (4 * 4096)) ∧
    { inFlight with schedule := [.host, .engine] }.schedule = .host :: [.engine] ∧
    (State.reset.schedule = [] ∧ State.reset.pend = none) ∧
    ((s (.write 0x050 4 1)).program = .write 0x050 4 1 :: [.wait] ∧
      (busWrite (s (.write 0x050 4 1)) 0x050 4 1).error = false ∧
      (busWrite (s (.write 0x060 4 1)) 0x060 4 1).error = true) ∧
    ((s (.read 0x010 4 (some 0))).program = .read 0x010 4 (some 0) :: [.wait] ∧
      (busRead (s (.read 0x010 4 none)) 0x010 4).error = false ∧
      (busRead (s (.read 0x010 1 none)) 0x010 1).error = true) ∧
    ((s .wait).program = .wait :: [.wait] ∧ (s .wait).pend = none ∧ (busy .wait).pend ≠ none) ∧
    ((s .check).program = .check :: [.wait] ∧ (s (.onSuccess 1)).program = .onSuccess 1 :: [.wait] ∧
      (s .readResult).program = .readResult :: [.wait] ∧ State.reset.program = []) := by
  exact ⟨by decide, rfl, ⟨rfl, rfl⟩, ⟨rfl, rfl, rfl⟩, ⟨rfl, rfl, rfl⟩, ⟨rfl, rfl, by simp [inFlight]⟩, rfl, rfl, rfl, rfl⟩

theorem witness_ExactlyBusErrorsStopAStep :
    let s : State := { State.reset with program := [.read 0x060 4 none] }
    let u : State := { inFlight with program := [.write 0x000 1 0], schedule := [.host] }
    (s.nextTurn = .host ∧ s.admitted 0x060 4 = none ∧ step s = .fault (.busError 0x060 4)) ∧
    (u.nextTurn = .host ∧ u.admitted 0x000 1 = none ∧ step u = .fault (.busError 0x000 1)) := by
  exact ⟨⟨rfl, rfl, rfl⟩, rfl, rfl, rfl⟩

theorem witness_AdmissibleProgramsNeverStop :
    ({ State.reset with
        program := [.write 0x000 4 0x0A, .wait, .check, .onSuccess 1, .readResult, .read 0x23FFC 4 (some 0)] } :
      State).ProgramAdmissible := by
  decide

theorem witness_CommandsCompleteAfterFinitelyManySteps :
    ({ inFlight with program := [.wait, .readResult, .read 0x050 4 none], schedule := [.host, .host] } :
      State).ProgramAdmissible := by
  decide

theorem witness_ResetEventAbandonsTheCommand :
    ({ inFlight with schedule := [.reset, .host] } : State).schedule = .reset :: [.host] := rfl

theorem witness_UnwrittenBytesKeepTheirValue :
    let s : State := { State.reset with program := [.write 0x10004 4 0x01020304] }
    ∃ t, step s = .next t ∧ s.nextTurn ≠ .reset ∧ Memory.get (s.buffer .input) 3 = none ∧
      Memory.get (t.buffer .input) 3 = none ∧ Memory.get (t.buffer .input) 4 = some 0x04 := by
  exact ⟨_, rfl, by decide, by decide, by decide, by decide⟩

theorem witness_EveryStepKeepsTheInvariant :
    let s : State := { sized 626 0 with program := [.write 0x1271C 4 0xFFFFFFFF] }
    s.Inv ∧ ∃ t, step s = .next t ∧ Memory.get t.inBuf 10015 = some 0xFF := by
  exact ⟨by decide, _, rfl, by decide⟩

theorem witness_EveryStepKeepsTheExpandedKey :
    let s : State := (State.reset.storeExpandedKey (roundKeyStore (keyExpansion (List.replicate 16 0) 10)) 10).accept 0
    s.HoldsExpandedKey ∧ ∃ t, step s = .next t := by
  exact ⟨⟨List.replicate 16 0, rfl, rfl⟩, _, rfl⟩

theorem witness_GfMultiplicationIsAField : (0xFF : Byte) ≠ 0 := by decide

theorem witness_SboxIsAffineOfInverse : gmul 0x53 0xCA = 1 := by decide +kernel

theorem witness_RoundConstantsAreDoublings : 1 ≤ 10 := by decide

theorem witness_KeyExpansionFollowsTheRecurrence :
    (roundsForKey (List.replicate 16 (0 : Byte)).length = some 10 ∧ 172 < 16 * 11 ∧ 172 % 4 = 0) ∧
    roundsForKey (List.replicate 24 (0 : Byte)).length = some 12 ∧
    (roundsForKey (List.replicate 32 (0 : Byte)).length = some 14 ∧ 32 < 16 * 15 ∧ 48 % 32 = 16) := by decide

theorem witness_DecryptionInvertsEncryption :
    roundsForKey (hexBytes 16 0x2b7e151628aed2a6abf7158809cf4f3c).length = some 10 ∧
    roundsForKey (List.replicate 24 (0xFF : Byte)).length = some 12 ∧
    roundsForKey (List.replicate 32 (0xFF : Byte)).length = some 14 := by decide

theorem witness_BlockCommandsUndoEachOther : (ready 0).keyValid = true := rfl

theorem witness_StepwiseRoundsEqualBlockCommands : (ready 0).keyValid = true := rfl

theorem witness_UnpaddingInvertsPadding :
    ([0x41, 0x00] : List Byte).getLast? = some 0x00 ∧ ([0x01] : List Byte).getLast? = some 0x01 ∧
    unpadCheck (List.replicate 16 0x10) = some 16 := by decide

/-- A state with a key and a message of 16 bytes, its ciphertext copied to IN. -/
theorem cbcEnc_copied (s : State) (hk : s.keyValid = true) (hn : s.inLen.toNat = 16) (hm : s.maxBlocks = 1024) :
    ∃ t, exec .cbcEnc s = .next t ∧
      let u : State := { t with inBuf := t.outBuf, inLen := t.outLen }
      s.CapacityLegal ∧ s.keyValid = true ∧ s.inLen.toNat ≤ 16 * s.maxBlocks - 1 ∧
      u.keyValid = t.keyValid ∧ u.rk = t.rk ∧ u.nr = t.nr ∧ u.iv = t.iv ∧ u.maxBlocks = t.maxBlocks ∧
      u.inLen = t.outLen ∧ ∀ a, a < t.outLen.toNat → u.inByte a = t.outByte a := by
  have hl : (cbcEncrypt s.rk s.rounds s.iv s.message).length = 32 := by
    rw [cbcEncrypt_length, State.message_length, hn]
  refine ⟨(s.withResult (cbcEncrypt s.rk s.rounds s.iv s.message)
    (cbcEncrypt s.rk s.rounds s.iv s.message).length).complete .noError, ?_, by simp [State.CapacityLegal, hm,
    Config.minBlocks, Config.maxBlocksLimit], hk, by omega, rfl, rfl, rfl, rfl, rfl, rfl, fun a ha => ?_⟩
  · simp [exec, execCbcEnc, requireKey_of_key hk, State.capacity, hn, hm, finish_eq_next]
  · have ha : a < 32 := by rw [State.complete_outLen, State.withResult_outLen, hl] at ha; exact ha
    simp [State.inByte, State.outByte, State.bufferByte, State.buffer, Memory.get_write, hl, ha]

/-- The 16 bytes 0x41 encrypted, and the result copied to IN. -/
theorem witness_CbcDecryptionInvertsCbcEncryption :
    let s := withMessage (ready 0) (List.replicate 16 0x41)
    ∃ t, exec .cbcEnc s = .next t ∧
      let u : State := { t with inBuf := t.outBuf, inLen := t.outLen }
      s.CapacityLegal ∧ s.keyValid = true ∧ s.inLen.toNat ≤ 16 * s.maxBlocks - 1 ∧
      u.keyValid = t.keyValid ∧ u.rk = t.rk ∧ u.nr = t.nr ∧ u.iv = t.iv ∧ u.maxBlocks = t.maxBlocks ∧
      u.inLen = t.outLen ∧ ∀ a, a < t.outLen.toNat → u.inByte a = t.outByte a :=
  cbcEnc_copied _ rfl rfl rfl

/-- One bit of block 0 of two blocks changed. -/
theorem witness_CiphertextChangesStayLocal :
    let mask : Block := hexBlock 0x00000001000000000000000000000000
    let c : List Byte := List.replicate 32 0
    let c' : List Byte := [0, 0, 0, 1] ++ List.replicate 28 0
    c.length % 16 = 0 ∧ c'.length = c.length ∧ 0 < c.length / 16 ∧ mask ≠ Vector.replicate 16 0 ∧
    ∀ j, j < c.length / 16 → blockAt c' j = if j = 0 then xorBlock (blockAt c j) mask else blockAt c j := by
  decide +kernel

end Sys2Proof.Tests
end

section
/-! PROOF. What a command can do to the core, said once; the invariant of the core after reset and over every step. -/

namespace Sys2Proof.Machine

/-! ### What a command does before it completes -/

/-- What a command can make of the core before its completion sets ERR: one case for each named update of the state, a
result never longer than OUT and its OUT_LEN never longer than the result (R108, R136, R137, R180-R188, R203, R204,
R222, R223, R262). -/
inductive CommandEffect (s : State) : State → Prop
  | nothing : CommandEffect s s
  | product (p : Byte) : CommandEffect s { s with gfP := p }
  | block (d : Block) : CommandEffect s (s.withData d)
  | noResult : CommandEffect s s.noResult
  | result (bs : List Byte) (n : Nat) (fits : bs.length ≤ s.capacity) (le : n ≤ bs.length) :
      CommandEffect s (s.withResult bs n)
  | dropKey : CommandEffect s s.dropExpandedKey
  | clearKey : CommandEffect s s.eraseKey.dropExpandedKey
  | storeKey (nr : Nat) (rounds : roundsForKey s.keyLen.toNat = some nr) :
      CommandEffect s (s.storeExpandedKey (roundKeyStore (keyExpansion s.keyOperand nr)) nr)

/-- `t` is the state of a command that did what `CommandEffect` allows and then completed (R241). -/
def CompletesFrom (s t : State) : Prop := ∃ u e, CommandEffect s u ∧ t = u.complete e

/-- A command that finishes after an allowed effect. -/
theorem CompletesFrom.of_finish {s u t : State} (hu : CommandEffect s u) (h : finish u = .next t) :
    CompletesFrom s t := ⟨u, _, hu, finish_eq_next.mp h⟩

/-- A command that raises after an allowed effect. -/
theorem CompletesFrom.of_raise {s u t : State} {e : ErrorCode} (hu : CommandEffect s u) (h : raise e u = .next t) :
    CompletesFrom s t := ⟨u, e, hu, raise_eq_next.mp h⟩

/-- A command that needs a key: what it does with one, and an allowed effect without. -/
theorem CompletesFrom.of_requireKey {s u t : State} {run : Host.Outcome State Fault Refusal}
    (hu : CommandEffect s u) (hrun : run = .next t → CompletesFrom s t) (h : requireKey s u run = .next t) :
    CompletesFrom s t := by
  rcases requireKey_eq_next h with ⟨_, hr⟩ | ⟨_, ht⟩
  · exact hrun hr
  · exact ⟨u, _, hu, ht⟩

/-- A single-step command changes DATA alone. -/
theorem stepData_completes {f : StateMatrix → StateMatrix} {s t : State} (h : stepData f s = .next t) :
    CompletesFrom s t := .of_finish (.block _) h

theorem execKeyExpand_completes {s t : State} (h : execKeyExpand s = .next t) : CompletesFrom s t := by
  unfold execKeyExpand at h
  split at h
  · exact .of_raise .dropKey h
  next nr hnr => exact .of_finish (.storeKey nr hnr) h

theorem execAddRoundKey_completes {rnd : Nat} {s t : State} (h : execAddRoundKey rnd s = .next t) :
    CompletesFrom s t := by
  refine .of_requireKey .nothing (fun hr => ?_) h
  split at hr
  · exact .of_raise .nothing hr
  · exact stepData_completes hr

/-- A message shorter than the buffer still fits when it is padded to the next multiple of 16. -/
theorem padded_fits {s : State} (hroom : 0 < s.maxBlocks) (hn : ¬ s.messageLength > s.capacity - 1) :
    s.messageLength + (16 - s.messageLength % 16) ≤ s.capacity := by
  simp only [State.capacity] at hn ⊢
  omega

theorem execPad_completes {s t : State} (hroom : 0 < s.maxBlocks) (h : execPad s = .next t) :
    CompletesFrom s t := by
  unfold execPad at h
  split at h
  · exact .of_raise .noResult h
  next hn =>
    have fits : (padBytes s.message).length ≤ s.capacity := by
      rw [padBytes_length, State.message_length]; exact padded_fits hroom hn
    exact .of_finish (.result _ _ fits le_rfl) h

theorem execUnpad_completes {s t : State} (h : execUnpad s = .next t) : CompletesFrom s t := by
  unfold execUnpad at h
  dsimp only at h
  split at h
  · exact .of_raise .noResult h
  next hn =>
    split at h
    · exact .of_raise .noResult h
    next p _ =>
      have fits : s.message.length ≤ s.capacity := (State.message_length s).trans_le (Nat.le_of_not_lt hn)
      exact .of_finish (.result _ _ fits (by simp)) h

theorem execCbcEnc_completes {s t : State} (hroom : 0 < s.maxBlocks) (h : execCbcEnc s = .next t) :
    CompletesFrom s t := by
  refine .of_requireKey .noResult (fun hr => ?_) h
  split at hr
  · exact .of_raise .noResult hr
  next hn =>
    have fits : (cbcEncrypt s.rk s.rounds s.iv s.message).length ≤ s.capacity := by
      rw [cbcEncrypt_length, State.message_length]; exact padded_fits hroom hn
    exact .of_finish (.result _ _ fits le_rfl) hr

theorem execCbcDec_completes {s t : State} (h : execCbcDec s = .next t) : CompletesFrom s t := by
  refine .of_requireKey .noResult (fun hr => ?_) h
  dsimp only at hr
  split at hr
  · exact .of_raise .noResult hr
  next hwhole =>
    split at hr
    · exact .of_raise .noResult hr
    next hn =>
      have len : (cbcDecryptRaw s.rk s.rounds s.iv s.message).length = s.messageLength := by
        have whole : s.message.length % 16 = 0 := by
          rw [State.message_length]
          exact not_not.mp (not_or.mp hwhole).2
        rw [cbcDecryptRaw_length _ _ _ _ whole, State.message_length]
      split at hr
      · exact .of_raise (.result _ _ (by simpa using hn) (Nat.zero_le _)) hr
      · exact .of_finish (.result _ _ (by omega) (by omega)) hr

/-- Every command has an allowed effect and completes, in every build with room for a block. -/
theorem exec_completes {i : Instr} {s t : State} (hroom : 0 < s.maxBlocks) (h : exec i s = .next t) :
    CompletesFrom s t := by
  cases i with
  | nop => exact .of_finish .nothing h
  | keyExpand => exact execKeyExpand_completes h
  | blockEnc => exact .of_requireKey .nothing (.of_finish (.block _)) h
  | blockDec => exact .of_requireKey .nothing (.of_finish (.block _)) h
  | cbcEnc => exact execCbcEnc_completes hroom h
  | cbcDec => exact execCbcDec_completes h
  | pad => exact execPad_completes hroom h
  | unpad => exact execUnpad_completes h
  | gfMul => exact .of_finish (.product _) h
  | keyClear => exact .of_finish .clearKey h
  | addRoundKey rnd => exact execAddRoundKey_completes h
  | subBytes | invSubBytes | shiftRows | invShiftRows | mixColumns | invMixColumns => exact stepData_completes h

/-- The Engine's step passes, or completes the word in flight with an allowed effect, an illegal word with none. -/
theorem engineStep_cases {s t : State} (hroom : 0 < s.maxBlocks) (h : engineStep s = .next t) :
    t = s ∨ CompletesFrom s t := by
  unfold engineStep at h
  split at h
  · injection h with h; exact .inl h.symm
  · split at h
    · exact .inr (.of_raise .nothing h)
    · exact .inr (exec_completes hroom h)

/-! ### The capacity never changes -/

theorem CommandEffect.maxBlocks_eq {s u : State} (hu : CommandEffect s u) : u.maxBlocks = s.maxBlocks := by
  cases hu <;> rfl

theorem CompletesFrom.maxBlocks_eq {s t : State} (h : CompletesFrom s t) : t.maxBlocks = s.maxBlocks := by
  obtain ⟨u, e, hu, rfl⟩ := h
  exact hu.maxBlocks_eq

/-! ### The invariant over each update -/

/-- A result within OUT keeps the invariant: OUT_LEN holds its length modulo 2^32, which is no greater. -/
theorem State.Inv.withResult {s : State} (hs : s.Inv) {bs : List Byte} {n : Nat} (fits : bs.length ≤ s.capacity)
    (le : n ≤ bs.length) : (s.withResult bs n).Inv := by
  obtain ⟨hcap, hkey, ⟨hin, hout⟩, -⟩ := hs
  refine ⟨hcap, hkey, ⟨hin, Memory.wf_write _ _ bs 0 hout ((Nat.zero_add _).trans_le fits)⟩, ?_⟩
  calc (BitVec.ofNat 32 n).toNat
    _ ≤ n := by simpa using Nat.mod_le _ _
    _ ≤ s.capacity := le.trans fits

/-- The round counts of R130 are those of a legal STATUS. -/
theorem roundsForKey_legal {n nr : Nat} (h : roundsForKey n = some nr) : nr = 10 ∨ nr = 12 ∨ nr = 14 := by
  unfold roundsForKey at h
  split at h <;> simp_all

theorem State.Inv.storeExpandedKey {s : State} (hs : s.Inv) (rk : Vector Byte 240) {nr : Nat}
    (hnr : nr = 10 ∨ nr = 12 ∨ nr = 14) : (s.storeExpandedKey rk nr).Inv := by
  obtain ⟨hcap, -, hbuf, hfit⟩ := hs
  refine ⟨hcap, .inr ⟨rfl, ?_⟩, hbuf, hfit⟩
  rw [State.storeExpandedKey_nr]
  rcases hnr with rfl | rfl | rfl <;> decide

theorem State.Inv.dropExpandedKey {s : State} (hs : s.Inv) : s.dropExpandedKey.Inv := by
  obtain ⟨hcap, -, hbuf, hfit⟩ := hs
  exact ⟨hcap, .inl ⟨rfl, rfl⟩, hbuf, hfit⟩

theorem State.Inv.noResult {s : State} (hs : s.Inv) : s.noResult.Inv := by
  obtain ⟨hcap, hkey, hbuf, -⟩ := hs
  exact ⟨hcap, hkey, hbuf, Nat.zero_le _⟩

theorem State.Inv.resetEvent {s : State} (hs : s.Inv) : s.resetEvent.Inv := by
  obtain ⟨hcap, -, -, -⟩ := hs
  exact ⟨hcap, .inl ⟨rfl, rfl⟩, ⟨rfl, rfl⟩, Nat.zero_le _⟩

/-- Every allowed effect keeps the invariant; KEY_CLEAR's erasure of KEY is outside what it speaks of. -/
theorem State.Inv.of_effect {s u : State} (hs : s.Inv) (hu : CommandEffect s u) : u.Inv := by
  cases hu with
  | nothing | product | block => exact hs
  | noResult => exact hs.noResult
  | result bs n fits le => exact hs.withResult fits le
  | dropKey => exact hs.dropExpandedKey
  | clearKey => exact State.Inv.dropExpandedKey (s := s.eraseKey) hs
  | storeKey nr rounds => exact hs.storeExpandedKey _ (roundsForKey_legal rounds)

theorem State.Inv.of_completes {s t : State} (hs : s.Inv) (h : CompletesFrom s t) : t.Inv := by
  obtain ⟨u, e, hu, rfl⟩ := h
  have huInv : u.Inv := hs.of_effect hu
  exact huInv

/-- An address that names a byte of IN is that byte's offset above the base of IN, and the byte is inside IN. -/
theorem busTarget_input {m : Nat} {a : BitVec 18} {o : Nat} (h : busTarget m a = some (.input o)) :
    a.toNat = 0x10000 + o ∧ o < 16 * m := by
  simp only [busTarget, ite_eq_iff, reduceCtorEq, Option.some.injEq, BusTarget.input.injEq, and_false, false_or,
    or_false] at h
  omega

/-- An admitted access to IN reaches four bytes inside it: the address and the end of IN are both multiples of 4. -/
theorem input_word_fits {s : State} {a : BitVec 18} {o : Nat} (h : s.admitted a 4 = some (.input o)) :
    o + 4 ≤ s.capacity := by
  unfold State.admitted at h
  split at h
  · cases h
  next haligned =>
    obtain ⟨haddr, ho⟩ := busTarget_input h
    simp only [State.capacity]
    omega

/-- An admitted write keeps the invariant: of what the invariant speaks of, only IN can change. -/
theorem State.Inv.writeTarget {s : State} (hs : s.Inv) {a : BitVec 18} {g : BusTarget}
    (hg : s.admitted a 4 = some g) (v : Word) : (s.writeTarget v g).Inv := by
  obtain ⟨hcap, hkey, ⟨hin, hout⟩, hfit⟩ := hs
  have hin' : Memory.wf s.capacity (s.writeTarget v g).inBuf = true := by
    cases g with
    | input o =>
      simp only [State.writeTarget]
      exact Memory.wf_write s.capacity s.inBuf _ o hin (input_word_fits hg)
    | _ => simp only [State.writeTarget, State.accept_inBuf, hin]
  simp only [State.Inv, State.CapacityLegal, State.KeyStatusLegal, State.BuffersCanonical, State.ResultFits,
    State.capacity, State.writeTarget_maxBlocks, State.writeTarget_keyValid, State.writeTarget_nr,
    State.writeTarget_outBuf, State.writeTarget_outLen]
  exact ⟨hcap, hkey, ⟨hin', hout⟩, hfit⟩

/-! ### The invariant over the steps -/

theorem hostStep_keeps_inv {s t : State} (hs : s.Inv) (h : hostStep s = .next t) :
    t.Inv ∧ t.maxBlocks = s.maxBlocks := by
  obtain ⟨u, p, r, d, rfl, rfl | rfl | ⟨a, v, g, hg, -, rfl⟩⟩ := hostStep_eq_next h
  · exact ⟨hs, rfl⟩
  · exact ⟨hs, rfl⟩
  · exact ⟨hs.writeTarget hg v, State.writeTarget_maxBlocks s v g⟩

theorem engineStep_keeps_inv {s t : State} (hs : s.Inv) (h : engineStep s = .next t) :
    t.Inv ∧ t.maxBlocks = s.maxBlocks := by
  have hroom : 0 < s.maxBlocks := by
    obtain ⟨⟨hmin, -⟩, -, -, -⟩ := hs
    exact Nat.lt_of_lt_of_le (by decide) hmin
  rcases engineStep_cases hroom h with rfl | hc
  · exact ⟨hs, rfl⟩
  · exact ⟨hs.of_completes hc, hc.maxBlocks_eq⟩

/-- Settles O47: the agent whose turn it is keeps the invariant from the state with the turn used up, which meets it as
the state before does. -/
theorem everyStepKeepsTheInvariant : Obligations.EveryStepKeepsTheInvariant := by
  intro s t hs h
  rcases step_cases s with ⟨-, e⟩ | ⟨-, e⟩ | ⟨-, e⟩
  · exact hostStep_keeps_inv (s := s.spendTurn) hs (e.symm.trans h)
  · exact engineStep_keeps_inv (s := s.spendTurn) hs (e.symm.trans h)
  · rw [e] at h
    injection h with h
    subst h
    exact ⟨State.Inv.resetEvent (s := s.spendTurn) hs, rfl⟩

/-- Settles O46: reset leaves no key, no result and both buffers empty, and the reference capacity is legal. -/
theorem resetMeetsTheInvariant : Obligations.ResetMeetsTheInvariant := by
  have hcap : State.reset.CapacityLegal := by decide
  have hkey : State.reset.KeyStatusLegal := .inl ⟨rfl, rfl⟩
  have hbuf : State.reset.BuffersCanonical := ⟨Memory.wf_reset .input, Memory.wf_reset .output⟩
  have hrk : State.reset.HoldsExpandedKey := rfl
  exact ⟨⟨hcap, hkey, hbuf, Nat.zero_le _⟩, hrk⟩

end Sys2Proof.Machine
end

section
/-! PROOF. Which command writes which register (R81): one case for each update a command can make, and the expanded key
kept by every step. -/

namespace Sys2Proof

/-- The commands that write OUT and OUT_LEN: the message commands (R81). -/
def Instr.writesResult : Instr → Bool
  | .pad | .unpad | .cbcEnc | .cbcDec => true
  | _ => false

/-- The commands that write DATA: the block commands and the single steps (R81). -/
def Instr.writesData : Instr → Bool
  | .blockEnc | .blockDec | .subBytes | .invSubBytes | .shiftRows | .invShiftRows | .mixColumns | .invMixColumns
  | .addRoundKey _ => true
  | _ => false

end Sys2Proof

namespace Sys2Proof.Machine

/-! ### The update of each command -/

/-- What command `i` can make of the core before its completion sets ERR (R81).  Beside `CommandEffect` it names the
command, and it says nothing of a result's length, so that it holds in every state, a build without room included. -/
inductive CommandUpdate (s : State) : Instr → State → Prop
  | nothing (i : Instr) : CommandUpdate s i s
  | product (p : Byte) : CommandUpdate s .gfMul { s with gfP := p }
  | block {i : Instr} (hi : i.writesData = true) (d : Block) : CommandUpdate s i (s.withData d)
  | noResult {i : Instr} (hi : i.writesResult = true) : CommandUpdate s i s.noResult
  | result {i : Instr} (hi : i.writesResult = true) (bs : List Byte) (n : Nat) : CommandUpdate s i (s.withResult bs n)
  | dropKey : CommandUpdate s .keyExpand s.dropExpandedKey
  | clearKey : CommandUpdate s .keyClear s.eraseKey.dropExpandedKey
  | storeKey (nr : Nat) (rounds : roundsForKey s.keyLen.toNat = some nr) :
      CommandUpdate s .keyExpand (s.storeExpandedKey (roundKeyStore (keyExpansion s.keyOperand nr)) nr)

/-- `t` is the state of command `i` that did one of its updates and then completed (R241). -/
def CompletesUpdate (s : State) (i : Instr) (t : State) : Prop := ∃ u e, CommandUpdate s i u ∧ t = u.complete e

theorem CompletesUpdate.of_finish {s u t : State} {i : Instr} (hu : CommandUpdate s i u) (h : finish u = .next t) :
    CompletesUpdate s i t := ⟨u, _, hu, finish_eq_next.mp h⟩

theorem CompletesUpdate.of_raise {s u t : State} {i : Instr} {e : ErrorCode} (hu : CommandUpdate s i u)
    (h : raise e u = .next t) : CompletesUpdate s i t := ⟨u, e, hu, raise_eq_next.mp h⟩

theorem CompletesUpdate.of_requireKey {s u t : State} {i : Instr} {run : Host.Outcome State Fault Refusal}
    (hu : CommandUpdate s i u) (hrun : run = .next t → CompletesUpdate s i t) (h : requireKey s u run = .next t) :
    CompletesUpdate s i t := by
  rcases requireKey_eq_next h with ⟨-, hr⟩ | ⟨-, ht⟩
  · exact hrun hr
  · exact ⟨u, _, hu, ht⟩

theorem execKeyExpand_updates {s t : State} (h : execKeyExpand s = .next t) : CompletesUpdate s .keyExpand t := by
  unfold execKeyExpand at h
  split at h
  · exact .of_raise .dropKey h
  next nr hnr => exact .of_finish (.storeKey nr hnr) h

theorem execAddRoundKey_updates {rnd : Nat} {s t : State} (h : execAddRoundKey rnd s = .next t) :
    CompletesUpdate s (.addRoundKey rnd) t := by
  refine .of_requireKey (.nothing _) (fun hr => ?_) h
  split at hr
  · exact .of_raise (.nothing _) hr
  · exact .of_finish (.block rfl _) hr

theorem execPad_updates {s t : State} (h : execPad s = .next t) : CompletesUpdate s .pad t := by
  unfold execPad at h
  split at h
  · exact .of_raise (.noResult rfl) h
  · exact .of_finish (.result rfl _ _) h

theorem execUnpad_updates {s t : State} (h : execUnpad s = .next t) : CompletesUpdate s .unpad t := by
  unfold execUnpad at h
  dsimp only at h
  split at h
  · exact .of_raise (.noResult rfl) h
  · split at h
    · exact .of_raise (.noResult rfl) h
    · exact .of_finish (.result rfl _ _) h

theorem execCbcEnc_updates {s t : State} (h : execCbcEnc s = .next t) : CompletesUpdate s .cbcEnc t := by
  refine .of_requireKey (.noResult rfl) (fun hr => ?_) h
  split at hr
  · exact .of_raise (.noResult rfl) hr
  · exact .of_finish (.result rfl _ _) hr

theorem execCbcDec_updates {s t : State} (h : execCbcDec s = .next t) : CompletesUpdate s .cbcDec t := by
  refine .of_requireKey (.noResult rfl) (fun hr => ?_) h
  dsimp only at hr
  split at hr
  · exact .of_raise (.noResult rfl) hr
  · split at hr
    · exact .of_raise (.noResult rfl) hr
    · split at hr
      · exact .of_raise (.result rfl _ _) hr
      · exact .of_finish (.result rfl _ _) hr

/-- Every command makes one of its own updates and completes, in every state. -/
theorem exec_updates {i : Instr} {s t : State} (h : exec i s = .next t) : CompletesUpdate s i t := by
  cases i with
  | nop => exact .of_finish (.nothing _) h
  | keyExpand => exact execKeyExpand_updates h
  | blockEnc | blockDec => exact .of_requireKey (.nothing _) (.of_finish (.block rfl _)) h
  | cbcEnc => exact execCbcEnc_updates h
  | cbcDec => exact execCbcDec_updates h
  | pad => exact execPad_updates h
  | unpad => exact execUnpad_updates h
  | gfMul => exact .of_finish (.product _) h
  | keyClear => exact .of_finish .clearKey h
  | addRoundKey rnd => exact execAddRoundKey_updates h
  | subBytes | invSubBytes | shiftRows | invShiftRows | mixColumns | invMixColumns =>
    exact .of_finish (.block rfl _) h

/-! ### The expanded key over every step -/

/-- The property reads KEY_VALID, NR and RK alone. -/
theorem State.HoldsExpandedKey.congr {s t : State} (hs : s.HoldsExpandedKey) (hvalid : t.keyValid = s.keyValid)
    (hnr : t.nr = s.nr) (hrk : t.rk = s.rk) : t.HoldsExpandedKey := by
  simpa only [State.HoldsExpandedKey, State.rounds, hvalid, hnr, hrk] using hs

/-- With RK all zero and KEY_VALID = 0 the property holds. -/
theorem State.HoldsExpandedKey.dropExpandedKey (s : State) : s.dropExpandedKey.HoldsExpandedKey := by
  simp [State.HoldsExpandedKey]

/-- A key length with a round count is within KEY, so the key operand has that length (R28, R130). -/
theorem State.keyOperand_length {s : State} {nr : Nat} (h : roundsForKey s.keyLen.toNat = some nr) :
    s.keyOperand.length = s.keyLen.toNat := by
  have hlen : s.keyLen.toNat ≤ 32 := by
    unfold roundsForKey at h
    split at h <;> simp_all
  simpa [State.keyOperand] using hlen

/-- KEY_EXPAND with a legal length stores the expansion of the key operand, whose length has the round count stored. -/
theorem State.HoldsExpandedKey.storeExpandedKey {s : State} {nr : Nat}
    (h : roundsForKey s.keyLen.toNat = some nr) :
    (s.storeExpandedKey (roundKeyStore (keyExpansion s.keyOperand nr)) nr).HoldsExpandedKey := by
  have hrounds : (BitVec.ofNat 4 nr).toNat = nr := by
    rcases roundsForKey_legal h with rfl | rfl | rfl <;> rfl
  simp only [State.HoldsExpandedKey, State.storeExpandedKey_keyValid, if_true, State.rounds,
    State.storeExpandedKey_nr, State.storeExpandedKey_rk, hrounds]
  exact ⟨s.keyOperand, by rw [State.keyOperand_length h, h], rfl⟩

theorem CommandUpdate.keeps_expandedKey {s u : State} {i : Instr} (hs : s.HoldsExpandedKey)
    (hu : CommandUpdate s i u) : u.HoldsExpandedKey := by
  cases hu with
  | nothing | product | block | noResult | result => exact hs.congr rfl rfl rfl
  | dropKey | clearKey => exact .dropExpandedKey _
  | storeKey nr rounds => exact .storeExpandedKey rounds

theorem exec_keeps_expandedKey {i : Instr} {s t : State} (hs : s.HoldsExpandedKey) (h : exec i s = .next t) :
    t.HoldsExpandedKey := by
  obtain ⟨u, e, hu, rfl⟩ := exec_updates h
  exact (hu.keeps_expandedKey hs).congr rfl rfl rfl

theorem engineStep_keeps_expandedKey {s t : State} (hs : s.HoldsExpandedKey) (h : engineStep s = .next t) :
    t.HoldsExpandedKey := by
  unfold engineStep at h
  split at h
  · injection h with h
    exact h ▸ hs
  · split at h
    · rw [completeIllegal_eq_next.mp h]
      exact hs.congr rfl rfl rfl
    · exact exec_keeps_expandedKey hs h

/-- A Host step writes neither RK nor the key's flags: RK is read-only on the bus, and so is STATUS (R31, R58). -/
theorem hostStep_keeps_expandedKey {s t : State} (hs : s.HoldsExpandedKey) (h : hostStep s = .next t) :
    t.HoldsExpandedKey := by
  obtain ⟨u, p, r, d, rfl, rfl | rfl | ⟨a, v, g, -, -, rfl⟩⟩ := hostStep_eq_next h
  · exact hs.congr rfl rfl rfl
  · exact hs.congr rfl rfl rfl
  · exact hs.congr (s.writeTarget_keyValid v g) (s.writeTarget_nr v g) (s.writeTarget_rk v g)

/-- Settles O48: the step of the Host, of the Engine, or a reset event, each from the state with the turn used up, which
has the key, RK and NR of the state before. -/
theorem everyStepKeepsTheExpandedKey : Obligations.EveryStepKeepsTheExpandedKey := by
  intro s t hs h
  have hspent : s.spendTurn.HoldsExpandedKey := hs.congr rfl rfl rfl
  rcases step_cases s with ⟨-, e⟩ | ⟨-, e⟩ | ⟨-, e⟩
  · exact hostStep_keeps_expandedKey hspent (e.symm.trans h)
  · exact engineStep_keeps_expandedKey hspent (e.symm.trans h)
  · rw [e] at h
    injection h with h
    subst h
    exact State.HoldsExpandedKey.congr (.dropExpandedKey s) rfl rfl rfl

/-! ### What commands write and leave -/

section
variable {s u : State} {i : Instr}

/-- Only KEY_CLEAR writes KEY (R28). -/
theorem CommandUpdate.key_eq (hu : CommandUpdate s i u) (hi : i ≠ .keyClear) : u.key = s.key := by
  cases hu with
  | clearKey => exact absurd rfl hi
  | _ => rfl

/-- Only the two key commands write RK, KEY_VALID and NR (R24, R31). -/
theorem CommandUpdate.expandedKey_eq (hu : CommandUpdate s i u) (hclear : i ≠ .keyClear) (hexpand : i ≠ .keyExpand) :
    u.rk = s.rk ∧ u.keyValid = s.keyValid ∧ u.nr = s.nr := by
  cases hu with
  | clearKey => exact absurd rfl hclear
  | dropKey | storeKey => exact absurd rfl hexpand
  | _ => exact ⟨rfl, rfl, rfl⟩

/-- Only GF_MUL writes P (R34). -/
theorem CommandUpdate.gfP_eq (hu : CommandUpdate s i u) (hi : i ≠ .gfMul) : u.gfP = s.gfP := by
  cases hu with
  | product => exact absurd rfl hi
  | _ => rfl

/-- Only a message command writes OUT_LEN and OUT (R26, R33). -/
theorem CommandUpdate.out_eq (hu : CommandUpdate s i u) (hi : i.writesResult = false) :
    u.outLen = s.outLen ∧ u.outBuf = s.outBuf ∧ ∀ a, u.outByte a = s.outByte a := by
  cases hu with
  | noResult h | result h => simp [hi] at h
  | _ => exact ⟨rfl, rfl, fun _ => rfl⟩

/-- Only a command on DATA writes DATA (R30). -/
theorem CommandUpdate.data_eq (hu : CommandUpdate s i u) (hi : i.writesData = false) : u.data = s.data := by
  cases hu with
  | block h => simp [hi] at h
  | _ => rfl

/-- The four message commands are the only ones that write a result. -/
theorem Instr.writesResult_eq_false (hpad : i ≠ .pad) (hunpad : i ≠ .unpad) (henc : i ≠ .cbcEnc)
    (hdec : i ≠ .cbcDec) : i.writesResult = false := by
  unfold Instr.writesResult
  split <;> trivial

end

/-- Settles O22: no update a command can make writes an operand register or anything of the Host's, and completion
writes ERR and PEND alone. -/
theorem commandsLeaveTheirInputs : Obligations.CommandsLeaveTheirInputs := by
  intro i s t h
  obtain ⟨u, e, hu, rfl⟩ := exec_updates h
  cases hu <;> exact ⟨rfl, rfl, fun _ => rfl, rfl, rfl, rfl, rfl, rfl, rfl, rfl, rfl, rfl, rfl, rfl⟩

/-- Settles O23: each register's update belongs to its writers alone, and completion writes ERR and PEND alone. -/
theorem eachRegisterHasItsWriters : Obligations.EachRegisterHasItsWriters := by
  intro i s t h
  obtain ⟨u, e, hu, rfl⟩ := exec_updates h
  refine ⟨hu.key_eq, hu.expandedKey_eq, hu.gfP_eq, fun hpad hunpad henc hdec => ?_, fun hi => ?_⟩
  · exact hu.out_eq (Instr.writesResult_eq_false hpad hunpad henc hdec)
  · refine hu.data_eq ?_
    rcases hi with rfl | rfl | rfl | rfl | rfl | rfl | rfl | rfl <;> rfl

end Sys2Proof.Machine
end

section
/-! PROOF. The Host's view of the core: the address map, the windows word by word, and the STATUS word. -/

namespace Sys2Proof.Machine

/-! ### The address map (R22, R51-R53) -/

section
variable {m : Nat} {a : BitVec 18}

theorem busTarget_keyWindow (hlo : 0x020 ≤ a.toNat) (hhi : a.toNat < 0x040) :
    busTarget m a = some (.key (a.toNat - 0x020)) := by
  grind [busTarget]

theorem busTarget_ivWindow (hlo : 0x040 ≤ a.toNat) (hhi : a.toNat < 0x050) :
    busTarget m a = some (.iv (a.toNat - 0x040)) := by
  grind [busTarget]

theorem busTarget_dataWindow (hlo : 0x050 ≤ a.toNat) (hhi : a.toNat < 0x060) :
    busTarget m a = some (.data (a.toNat - 0x050)) := by
  grind [busTarget]

theorem busTarget_rkWindow (hlo : 0x100 ≤ a.toNat) (hhi : a.toNat < 0x1F0) :
    busTarget m a = some (.rk (a.toNat - 0x100)) := by
  grind [busTarget]

theorem busTarget_inputWindow (hlo : 0x10000 ≤ a.toNat) (hhi : a.toNat < 0x10000 + 16 * m) :
    busTarget m a = some (.input (a.toNat - 0x10000)) := by
  grind [busTarget]

/-- IN ends at or below the base of OUT in every build up to the limit of R10. -/
theorem busTarget_outputWindow (hm : m ≤ 4096) (hlo : 0x20000 ≤ a.toNat) (hhi : a.toNat < 0x20000 + 16 * m) :
    busTarget m a = some (.output (a.toNat - 0x20000)) := by
  grind [busTarget]

/-- The unmapped word addresses are the gaps of the map. -/
theorem busTarget_eq_none_iff (hm : m ≤ 4096) (ha : a.toNat % 4 = 0) : busTarget m a = none ↔
    (0x00060 ≤ a.toNat ∧ a.toNat ≤ 0x000FF) ∨ (0x001F0 ≤ a.toNat ∧ a.toNat ≤ 0x0FFFF) ∨
    (0x10000 + 16 * m ≤ a.toNat ∧ a.toNat ≤ 0x1FFFF) ∨ (0x20000 + 16 * m ≤ a.toNat ∧ a.toNat ≤ 0x3FFFF) := by
  have hlt : a.toNat < 0x40000 := a.isLt
  simp only [busTarget, ite_eq_iff, reduceCtorEq, and_false, false_or, and_true]
  omega

end

/-- Settles O31: the registers by evaluation, then the map window by window and its gaps. -/
theorem unmappedAddressesAreTheHoles : Obligations.UnmappedAddressesAreTheHoles := by
  refine ⟨rfl, rfl, fun m _ hm => ⟨rfl, fun a => ?_⟩⟩
  exact ⟨busTarget_keyWindow, busTarget_ivWindow, busTarget_dataWindow, busTarget_rkWindow, busTarget_inputWindow,
    busTarget_outputWindow hm, busTarget_eq_none_iff hm⟩

/-! ### The words of the windows -/

/-- Word `j` above a base stands `4j` bytes above it, as long as the sum is still an address. -/
theorem wordAddr_toNat {base : BitVec 18} {j : Nat} (h : base.toNat + 4 * j < 2 ^ 18) :
    (wordAddr base j).toNat = base.toNat + 4 * j := by
  rw [wordAddr, BitVec.toNat_add, BitVec.toNat_ofNat, Nat.add_mod_mod, Nat.mod_eq_of_lt h]

/-- A word access inside a window is admitted and reaches the byte at its offset in the window. -/
theorem admitted_windowWord {s : State} {base : BitVec 18} {size j : Nat} {target : Nat → BusTarget}
    (window : ∀ a : BitVec 18, base.toNat ≤ a.toNat → a.toNat < base.toNat + size →
      busTarget s.maxBlocks a = some (target (a.toNat - base.toNat)))
    (aligned : base.toNat % 4 = 0) (inMap : base.toNat + size ≤ 2 ^ 18) (hj : 4 * j < size) :
    s.admitted (wordAddr base j) 4 = some (target (4 * j)) := by
  have ha : (wordAddr base j).toNat = base.toNat + 4 * j := wordAddr_toNat (by omega)
  have hg : busTarget s.maxBlocks (wordAddr base j) = some (target (4 * j)) := by
    rw [window _ (by omega) (by omega), ha, Nat.add_sub_cancel_left]
  rw [State.admitted, if_neg (by omega), hg]

section
variable {s : State} {j : Nat}

theorem admitted_keyWord (hj : j < 8) : s.admitted (wordAddr baseKey j) 4 = some (.key (4 * j)) :=
  admitted_windowWord (size := 32) (fun _ => busTarget_keyWindow) rfl (by decide) (by omega)

theorem admitted_ivWord (hj : j < 4) : s.admitted (wordAddr baseIv j) 4 = some (.iv (4 * j)) :=
  admitted_windowWord (size := 16) (fun _ => busTarget_ivWindow) rfl (by decide) (by omega)

theorem admitted_dataWord (hj : j < 4) : s.admitted (wordAddr baseData j) 4 = some (.data (4 * j)) :=
  admitted_windowWord (size := 16) (fun _ => busTarget_dataWindow) rfl (by decide) (by omega)

theorem admitted_rkWord (hj : j < 60) : s.admitted (wordAddr baseRk j) 4 = some (.rk (4 * j)) :=
  admitted_windowWord (size := 240) (fun _ => busTarget_rkWindow) rfl (by decide) (by omega)

/-- IN ends within the 18-bit addresses in every legal build. -/
theorem admitted_inputWord (hs : s.CapacityLegal) (hj : j < 4 * s.maxBlocks) :
    s.admitted (wordAddr baseIn j) 4 = some (.input (4 * j)) := by
  obtain ⟨-, hmax⟩ := hs
  refine admitted_windowWord (size := 16 * s.maxBlocks) (fun _ => busTarget_inputWindow) rfl ?_ (by omega)
  calc 0x10000 + 16 * s.maxBlocks
    _ ≤ 0x10000 + 16 * 4096 := by gcongr; exact hmax
    _ ≤ 2 ^ 18 := by decide

/-- OUT ends within the 18-bit addresses in every legal build. -/
theorem admitted_outputWord (hs : s.CapacityLegal) (hj : j < 4 * s.maxBlocks) :
    s.admitted (wordAddr baseOut j) 4 = some (.output (4 * j)) := by
  obtain ⟨-, hmax⟩ := hs
  refine admitted_windowWord (size := 16 * s.maxBlocks) (fun _ => busTarget_outputWindow hmax) rfl ?_ (by omega)
  calc 0x20000 + 16 * s.maxBlocks
    _ ≤ 0x20000 + 16 * 4096 := by gcongr; exact hmax
    _ ≤ 2 ^ 18 := by decide

end

/-! ### Accesses while idle -/

section
variable {s : State} {a : BitVec 18} {g : BusTarget}

/-- A write while idle has its target's effect (R58). -/
theorem busWrite_idle (hidle : s.pend = none) (hg : s.admitted a 4 = some g) (v : Word) :
    busWrite s a 4 v = ⟨false, 0, s.writeTarget v g⟩ := by
  simp [busWrite, hg, hidle]

/-- A read while idle is exact (R57). -/
theorem busRead_idle_value (hidle : s.pend = none) (hg : s.admitted a 4 = some g) :
    (busRead s a 4).value = s.readTarget g := by
  have hbusy : s.busy = false := by rw [State.busy, hidle]; rfl
  simp [busRead, hg, hbusy]

end

/-! The registers beside STATUS, CMD and OUT_LEN are admitted in every build, as those are. -/

@[simp] theorem admitted_regKeyLen (s : State) : s.admitted regKeyLen 4 = some .keyLen := rfl

@[simp] theorem admitted_regInLen (s : State) : s.admitted regInLen 4 = some .inLen := rfl

@[simp] theorem admitted_regGfOps (s : State) : s.admitted regGfOps 4 = some .gfOps := rfl

@[simp] theorem admitted_regGfRes (s : State) : s.admitted regGfRes 4 = some .gfRes := rfl

@[simp] theorem admitted_regCaps (s : State) : s.admitted regCaps 4 = some .caps := rfl

/-! ### Byte lanes (R55) -/

/-- Lane `k` of a word put together from four bytes is byte `k`. -/
theorem lane_le32 (f : Nat → Byte) {k : Nat} (hk : k < 4) : lane (le32 (f 0) (f 1) (f 2) (f 3)) k = f k := by
  change BitVec.extractLsb' (n := 8 + 8 + 8 + 8) (8 * k) 8 (f 3 ++ f 2 ++ f 1 ++ f 0) = f k
  interval_cases k <;>
    simp (disch := decide) only [BitVec.extractLsb'_append_eq_of_le, BitVec.extractLsb'_append_eq_of_add_le] <;>
    exact BitVec.extractLsb'_eq_self

/-- A word is put together from its own lanes. -/
theorem le32_lanes (v : Word) : le32 (lane v 0) (lane v 1) (lane v 2) (lane v 3) = v := by
  simp only [le32, lane]
  rw [BitVec.extractLsb'_append_extractLsb'_eq_extractLsb' (start₂ := 8 * 3) (start₁ := 8 * 2) rfl,
    BitVec.extractLsb'_append_extractLsb'_eq_extractLsb' (start₂ := 8 * 2) (start₁ := 8 * 1) rfl,
    BitVec.extractLsb'_append_extractLsb'_eq_extractLsb' (start₂ := 8 * 1) (start₁ := 8 * 0) rfl]
  exact BitVec.extractLsb'_eq_self

/-- Four bytes that are the lanes of `v` make `v`. -/
theorem le32_of_lanes {v : Word} {f : Nat → Byte} (h : ∀ k < 4, f k = lane v k) :
    le32 (f 0) (f 1) (f 2) (f 3) = v := by
  rw [h 0 (by decide), h 1 (by decide), h 2 (by decide), h 3 (by decide), le32_lanes]

theorem lane_wordAt {n : Nat} (x : Vector Byte n) (o : Nat) {k : Nat} (hk : k < 4) :
    lane (wordAt x o) k = x.getD (o + k) 0 := lane_le32 (fun k => x.getD (o + k) 0) hk

theorem State.lane_bufferWord (s : State) (b : Config.Buffer) (o : Nat) {k : Nat} (hk : k < 4) :
    lane (s.bufferWord b o) k = s.bufferByte b (o + k) := lane_le32 (fun k => s.bufferByte b (o + k)) hk

/-- A word written to an array sets its four bytes and leaves the others. -/
theorem getElem_setWordAt {n : Nat} (x : Vector Byte n) (o : Nat) (v : Word) (i : Nat) (hi : i < n) :
    (setWordAt x o v)[i] = if o ≤ i ∧ i < o + 4 then lane v (i - o) else x[i] := by
  simp [setWordAt]

/-- A word written inside an array reads back. -/
theorem wordAt_setWordAt {n : Nat} (x : Vector Byte n) {o : Nat} (v : Word) (ho : o + 4 ≤ n) :
    wordAt (setWordAt x o v) o = v := by
  refine le32_of_lanes (f := fun k => (setWordAt x o v).getD (o + k) 0) fun k hk => ?_
  have hin : o + k < n := by omega
  simp [Vector.getD, hin, getElem_setWordAt, hk]

/-- A word written to IN sets its four bytes and leaves the others. -/
theorem State.inByte_writeTarget_input (s : State) (v : Word) (o a : Nat) :
    (s.writeTarget v (.input o)).inByte a = if o ≤ a ∧ a < o + 4 then lane v (a - o) else s.inByte a := by
  simp only [State.inByte, State.bufferByte, State.buffer, State.writeTarget, Memory.get_write, List.length_cons,
    List.length_nil, Nat.zero_add, Nat.reduceAdd]
  split_ifs with h
  · obtain ⟨hlo, hhi⟩ := h
    obtain ⟨k, rfl⟩ := Nat.exists_eq_add_of_le hlo
    have hk : k < 4 := by omega
    rw [Nat.add_sub_cancel_left]
    interval_cases k <;> rfl
  · rfl

/-- A word written to IN reads back. -/
theorem State.bufferWord_writeTarget_input (s : State) (v : Word) (o : Nat) :
    (s.writeTarget v (.input o)).bufferWord .input o = v := by
  refine le32_of_lanes (f := fun k => (s.writeTarget v (.input o)).inByte (o + k)) fun k hk => ?_
  rw [State.inByte_writeTarget_input, if_pos (by omega), Nat.add_sub_cancel_left]

/-- The low byte of a word, zero-extended, is the word with its other bits 0. -/
theorem zeroExtend_lane_zero (v : Word) : (lane v 0).zeroExtend 32 = v &&& 0x000000FF := by
  have hmask : (0x000000FF : Word) = (BitVec.allOnes 8).setWidth 32 := rfl
  rw [hmask]
  apply BitVec.eq_of_getLsbD_eq
  intro i hi
  simp only [lane, BitVec.getLsbD_extractLsb', BitVec.getLsbD_and, BitVec.getLsbD_setWidth, BitVec.getLsbD_allOnes]
  grind

/-- The two low bytes of a word, under 16 zero bits, are the word with its other bits 0. -/
theorem append_lanes_one_zero (v : Word) : 0#16 ++ lane v 1 ++ lane v 0 = v &&& 0x0000FFFF := by
  have hmask : (0x0000FFFF : Word) = (BitVec.allOnes 16).setWidth 32 := rfl
  rw [hmask]
  apply BitVec.eq_of_getLsbD_eq
  intro i hi
  simp only [lane, BitVec.getLsbD_append, BitVec.getLsbD_extractLsb', BitVec.getLsbD_zero, BitVec.getLsbD_and,
    BitVec.getLsbD_setWidth, BitVec.getLsbD_allOnes]
  grind

/-! ### Reads and writes of the registers and windows -/

/-- Settles O33: a write sets the word in its array, and the read of the same word finds it there. -/
theorem windowWritesAreLittleEndian : Obligations.WindowWritesAreLittleEndian := by
  intro s v hidle
  refine ⟨fun j hj => ?_, fun j hj => ?_, fun j hj => ?_⟩
  · have hread := busRead_idle_value (s := { s with key := setWordAt s.key (4 * j) v }) hidle (admitted_keyWord hj)
    exact ⟨setWordAt s.key (4 * j) v, busWrite_idle hidle (admitted_keyWord hj) v, getElem_setWordAt s.key (4 * j) v,
      hread.trans (wordAt_setWordAt s.key v (by omega))⟩
  · have hread := busRead_idle_value (s := { s with iv := setWordAt s.iv (4 * j) v }) hidle (admitted_ivWord hj)
    exact ⟨setWordAt s.iv (4 * j) v, busWrite_idle hidle (admitted_ivWord hj) v, getElem_setWordAt s.iv (4 * j) v,
      hread.trans (wordAt_setWordAt s.iv v (by omega))⟩
  · have hread := busRead_idle_value (s := { s with data := setWordAt s.data (4 * j) v }) hidle (admitted_dataWord hj)
    exact ⟨setWordAt s.data (4 * j) v, busWrite_idle hidle (admitted_dataWord hj) v,
      getElem_setWordAt s.data (4 * j) v, hread.trans (wordAt_setWordAt s.data v (by omega))⟩

/-- Settles O34: the state after is the target's effect on IN, whose bytes are the word's lanes. -/
theorem inputBufferReadsBackWhatWasWritten : Obligations.InputBufferReadsBackWhatWasWritten := by
  intro s v j hcap hidle hj
  have hread := busRead_idle_value (s := s.writeTarget v (.input (4 * j))) hidle (admitted_inputWord hcap hj)
  exact ⟨s.writeTarget v (.input (4 * j)), busWrite_idle hidle (admitted_inputWord hcap hj) v, rfl,
    s.inByte_writeTarget_input v (4 * j), fun _ => rfl, hread.trans (s.bufferWord_writeTarget_input v (4 * j))⟩

/-- Settles O35: each read is the target's exact word, and a window's word has the array's bytes as its lanes. -/
theorem resultWindowsReadLittleEndian : Obligations.ResultWindowsReadLittleEndian := by
  intro s hidle
  refine ⟨busRead_idle_value hidle (admitted_regOutLen s), busRead_idle_value hidle (admitted_regGfRes s),
    fun j k hk => ⟨fun hj => ?_, fun hcap hj => ?_⟩⟩
  · have hread := busRead_idle_value hidle (admitted_rkWord hj)
    exact (congrArg (lane · k) hread).trans (lane_wordAt s.rk (4 * j) hk)
  · have hread := busRead_idle_value hidle (admitted_outputWord hcap hj)
    exact (congrArg (lane · k) hread).trans (s.lane_bufferWord .output (4 * j) hk)

/-- Settles O36: the effect of a write to a read-only target is none. -/
theorem writesToReadOnlyRegistersAreIgnored : Obligations.WritesToReadOnlyRegistersAreIgnored := by
  intro s v hidle
  exact ⟨busWrite_idle hidle (admitted_regStatus s) v, busWrite_idle hidle (admitted_regOutLen s) v,
    busWrite_idle hidle (admitted_regGfRes s) v, busWrite_idle hidle (admitted_regCaps s) v,
    fun j hj => busWrite_idle hidle (admitted_rkWord hj) v,
    fun hcap j hj => busWrite_idle hidle (admitted_outputWord hcap hj) v⟩

/-- Settles O32: a write sets the fields of its register from the word's low lanes, and the read puts them together
under zero bits. -/
theorem registersReadBackWhatWasWritten : Obligations.RegistersReadBackWhatWasWritten := by
  intro s v hidle
  have hkeyLen := busWrite_idle hidle (admitted_regKeyLen s) v
  have hinLen := busWrite_idle hidle (admitted_regInLen s) v
  have hgfOps := busWrite_idle hidle (admitted_regGfOps s) v
  refine ⟨⟨hkeyLen, ?_⟩, ⟨hinLen, ?_⟩, ⟨hgfOps, ?_⟩⟩
  · rw [hkeyLen, busRead_idle_value (s := s.writeTarget v .keyLen) hidle (admitted_regKeyLen _)]
    exact zeroExtend_lane_zero v
  · rw [hinLen, busRead_idle_value (s := s.writeTarget v .inLen) hidle (admitted_regInLen _)]
    rfl
  · rw [hgfOps, busRead_idle_value (s := s.writeTarget v .gfOps) hidle (admitted_regGfOps _)]
    exact append_lanes_one_zero v

/-! ### The STATUS word (R24) -/

/-- The bits and fields of a word put together from the fields of STATUS are those fields. -/
theorem statusFields_of_append (r : BitVec 20) (n e : BitVec 4) (z : BitVec 1) (w k b : Bool) :
    let x := r ++ n ++ e ++ z ++ BitVec.ofBool w ++ BitVec.ofBool k ++ BitVec.ofBool b
    (x.getLsbD 0 = b ∧ x.getLsbD 1 = k ∧ x.getLsbD 2 = w ∧ x.getLsbD 3 = z.getLsbD 0) ∧
    x.extractLsb' 4 4 = e ∧ x.extractLsb' 8 4 = n ∧ x.extractLsb' 12 20 = r := by
  refine ⟨?_, ?_, ?_, ?_⟩
  · simp only [BitVec.getLsbD_append]
    simp
  all_goals
    simp (disch := decide) only [BitVec.extractLsb'_append_eq_of_le, BitVec.extractLsb'_append_eq_of_add_le]
    exact BitVec.extractLsb'_eq_self

/-- Settles O37: STATUS is put together from its fields, and the codes are read off one by one. -/
theorem statusWordShowsTheFlags : Obligations.StatusWordShowsTheFlags := by
  refine ⟨rfl, fun s => ?_⟩
  obtain ⟨⟨hbusy, hkey, hdrop, hzero⟩, herr, hnr, hhigh⟩ :=
    statusFields_of_append 0 s.nr (errorBits s.err) 0 s.wdrop s.keyValid s.busy
  exact ⟨hbusy, hkey, hdrop, hzero, herr, hnr, hhigh⟩

end Sys2Proof.Machine
end

section
/-! PROOF. What the Host meets on the bus: which accesses are admitted, exact reads, free reads and dropped writes while
a command is in flight, and the error response. -/

namespace Sys2Proof.Machine

/-! ### Which accesses are admitted (R53, R54, R56) -/

section
variable {s : State} {a : BitVec 18} {size : Nat}

/-- The bus refuses an access that is misaligned, not 32 bits wide, or to an unmapped address (R56). -/
theorem admitted_eq_none_iff :
    s.admitted a size = none ↔ a.toNat % 4 ≠ 0 ∨ size ≠ 4 ∨ busTarget s.maxBlocks a = none := by
  rw [State.admitted, ite_eq_left_iff, ← or_assoc]
  tauto

/-- An aligned word access reaches what the address map names. -/
theorem admitted_aligned (ha : a.toNat % 4 = 0) : s.admitted a 4 = busTarget s.maxBlocks a := by
  simp [State.admitted, ha]

theorem busRead_refused (h : s.admitted a size = none) : busRead s a size = ⟨true, 0, s⟩ := by
  simp [busRead, h, busErrorReply]

theorem busWrite_refused (h : s.admitted a size = none) (v : Word) : busWrite s a size v = ⟨true, 0, s⟩ := by
  simp [busWrite, h, busErrorReply]

theorem busRead_error_iff : (busRead s a size).error = true ↔ s.admitted a size = none := by
  rcases busRead_cases s a size with ⟨h, e⟩ | ⟨t, h, -, -, e⟩ | ⟨t, h, -, e⟩ <;> simp [h, e]

theorem busWrite_error_iff {v : Word} : (busWrite s a size v).error = true ↔ s.admitted a size = none := by
  rcases busWrite_cases s a size v with ⟨h, e⟩ | ⟨t, h, -, e⟩ | ⟨t, h, -, e⟩ <;> simp [h, e]

/-! ### Whether a command is in flight (R24) -/

theorem State.busy_eq_true_iff : s.busy = true ↔ s.pend ≠ none := Option.isSome_iff_ne_none

theorem State.busy_eq_false_iff : s.busy = false ↔ s.pend = none :=
  Option.isSome_eq_false_iff.trans Option.isNone_iff_eq_none

/-! ### Admitted accesses (R57, R60, R61) -/

variable {g : BusTarget}

/-- While busy a read is exact for STATUS, CAPS and CMD alone (R61). -/
theorem exactWhileBusy_eq_false (hstatus : g ≠ .status) (hcaps : g ≠ .caps) (hcmd : g ≠ .cmd) :
    exactWhileBusy g = false := by
  unfold exactWhileBusy
  split <;> trivial

theorem busRead_exact (hg : s.admitted a size = some g) (h : s.pend = none ∨ exactWhileBusy g = true) :
    busRead s a size = ⟨false, s.readTarget g, s⟩ := by
  rcases h with h | h
  · simp [busRead, hg, State.busy_eq_false_iff.mpr h]
  · simp [busRead, hg, h]

theorem busRead_free (hg : s.admitted a size = some g) (hbusy : s.pend ≠ none) (hx : exactWhileBusy g = false) :
    busRead s a size = ⟨false, Config.busyRead s.draws, { s with draws := s.draws + 1 }⟩ := by
  simp [busRead, hg, hx, State.busy_eq_true_iff.mpr hbusy]

theorem busWrite_dropped (hg : s.admitted a size = some g) (hbusy : s.pend ≠ none) (v : Word) :
    busWrite s a size v = ⟨false, 0, { s with wdrop := true }⟩ := by
  simp [busWrite, hg, State.busy_eq_true_iff.mpr hbusy]

/-- A read changes nothing but the draw counter. -/
theorem busRead_reads (s : State) (a : BitVec 18) (size : Nat) : (busRead s a size).state.reads = s.reads := by
  rcases busRead_cases s a size with ⟨-, e⟩ | ⟨t, -, -, -, e⟩ | ⟨t, -, -, e⟩ <;> rw [e]

/-- Of all writes to a mapped address only an accepted command clears WDROP (R60, R240). -/
theorem State.writeTarget_wdrop_or_accepts (s : State) (v : Word) (g : BusTarget) :
    (s.writeTarget v g).wdrop = s.wdrop ∨ (s.writeTarget v g).pend ≠ none := by
  cases g with
  | cmd => exact .inr (by simp [State.writeTarget])
  | _ => exact .inl (by simp only [State.writeTarget])

end

/-- Settles O29: the three exact registers are so at every time, and an aligned mapped access reaches its target. -/
theorem readsWhileBusyAreFree : Obligations.ReadsWhileBusyAreFree := by
  refine ⟨fun s => ⟨busRead_regStatus s, ?_, ?_⟩, fun s a t ha ht => ?_⟩
  · exact busRead_exact (admitted_regCmd s) (.inr rfl)
  · exact busRead_exact (admitted_regCaps s) (.inr rfl)
  · have hg : s.admitted a 4 = some t := (admitted_aligned ha).trans ht
    exact ⟨fun hbusy hstatus hcaps hcmd => busRead_free hg hbusy (exactWhileBusy_eq_false hstatus hcaps hcmd),
      fun hidle => busRead_exact hg (.inl hidle)⟩

/-- Settles O30: such an access is not admitted, and the bus answers it with the error response. -/
theorem busErrorsChangeNothing : Obligations.BusErrorsChangeNothing := by
  intro s a size v h
  have hg : s.admitted a size = none := admitted_eq_none_iff.mpr h
  exact ⟨busRead_refused hg, busWrite_refused hg v⟩

end Sys2Proof.Machine
end

section
/-! PROOF. The lines of a host program: their assembly, what the Host's step does on each, and exactly when it stops. -/

namespace Sys2Proof.Machine

/-! ### Assembly (R88, R89, R91) -/

/-- A program is assembled line by line, and refused if a line is. -/
theorem assemble_eq_some_iff (ls : List HostLine) (ops : List HostOp) :
    assemble ls = some ops ↔ ls.map assembleLine = ops.map some := by
  induction ls generalizing ops with
  | nil => cases ops <;> simp [assemble]
  | cons l ls ih =>
    cases ops with
    | nil =>
      rw [assemble]
      split <;> simp
    | cons op ops =>
      rw [List.map_cons, List.map_cons, List.cons.injEq, ← ih, assemble]
      split
      · simp [*]
      next hnone =>
        simp only [reduceCtorEq, false_iff]
        rintro ⟨hl, hls⟩
        exact hnone op ops hl hls

/-- The reads of a result are those of the words of OUT from its base on. -/
theorem resultReads_getElem? {m n j : Nat} (hj : j < min ((n + 3) / 4) (4 * m)) :
    (resultReads m n)[j]? = some (.read (baseOut + BitVec.ofNat 18 (4 * j)) 4 none) := by
  have hj' : j < min (wordCount n) (4 * m) := hj
  simp only [resultReads, List.getElem?_map, List.getElem?_range hj', Option.map_some, wordAddr]

/-! ### What a STATUS read shows (R24, R90, R91) -/

theorem State.statusWord_busy (s : State) : s.statusWord.getLsbD 0 = s.pend.isSome := by
  obtain ⟨-, hfields⟩ := statusWordShowsTheFlags
  exact (hfields s).left

/-- Only code 0 is NONE (R260). -/
theorem errorBits_eq_zero_iff {e : ErrorCode} : errorBits e = 0 ↔ e = .noError := by
  cases e <;> decide

theorem noErrorIn_statusWord (s : State) : noErrorIn s.statusWord = true ↔ s.err = .noError := by
  obtain ⟨-, hfields⟩ := statusWordShowsTheFlags
  obtain ⟨-, -, -, -, herr, -, -⟩ := hfields s
  rw [noErrorIn, herr, beq_iff_eq, errorBits_eq_zero_iff]

/-! ### The Host's step on each line (R57, R58, R90-R93) -/

section
variable {s : State} {rest : List HostOp}

theorem hostStep_write {a : BitVec 18} {size : Nat} {v : Word} (hp : s.program = .write a size v :: rest) :
    hostStep s = if (busWrite s a size v).error then .fault (.busError a size)
      else .next { (busWrite s a size v).state with program := rest } := by
  rw [hostStep_of_line hp]
  rfl

theorem hostStep_read {a : BitVec 18} {size : Nat} {x : Option Word} (hp : s.program = .read a size x :: rest) :
    hostStep s = if (busRead s a size).error then .fault (.busError a size)
      else .next { (busRead s a size).state with
        program := rest, reads := s.reads ++ [⟨a, (busRead s a size).value, x⟩] } := by
  rw [hostStep_of_line hp, ← busRead_reads s a size]
  rfl

theorem hostStep_wait (hp : s.program = .wait :: rest) :
    hostStep s = .next (if s.busy then s else { s with program := rest }) := by
  simp only [hostStep_of_line hp, performOp, busRead_regStatus, State.statusWord_busy]
  rfl

theorem hostStep_check (hp : s.program = .check :: rest) :
    hostStep s = .next { s with program := if s.err = .noError then rest else [] } := by
  simp [hostStep_of_line hp, performOp, afterReply, noErrorIn_statusWord, State.withProgram]

theorem hostStep_onSuccess {n : Nat} (hp : s.program = .onSuccess n :: rest) :
    hostStep s = .next { s with
      program := if s.err = .noError then rest else rest.drop n
      reads := s.reads ++ [⟨regStatus, s.statusWord, none⟩] } := by
  simp [hostStep_of_line hp, performOp, afterReply, noErrorIn_statusWord, State.withProgram, State.withRead]

/-- OUT_LEN is admitted in every build, so its read is no error. -/
theorem busRead_regOutLen_error (s : State) : (busRead s regOutLen 4).error = false := by
  obtain ⟨v, d, e, -⟩ := busRead_regOutLen s
  rw [e]

theorem hostStep_readResult (hp : s.program = .readResult :: rest) :
    hostStep s = .next { (busRead s regOutLen 4).state with
      program := resultReads s.maxBlocks (busRead s regOutLen 4).value.toNat ++ rest
      reads := s.reads ++ [⟨regOutLen, (busRead s regOutLen 4).value, none⟩] } := by
  rw [hostStep_of_line hp, ← busRead_reads s regOutLen 4]
  simp [performOp, afterReply, busRead_regOutLen_error, State.withProgram, State.withRead]

end

/-- Settles O39: the assembly, then one equation for each line at the head of the Host's program. -/
theorem hostLinesDoTheirBusSteps : Obligations.HostLinesDoTheirBusSteps := by
  refine ⟨fun _ _ => ⟨rfl, rfl, rfl⟩, fun _ => rfl, fun _ => ⟨rfl, rfl, rfl, rfl⟩, assemble_eq_some_iff,
    fun m n => ⟨by simp [resultReads, wordCount], fun j => resultReads_getElem?⟩, ?_, ?_, fun s rest => ?_⟩
  · intro s ts hs
    simp [step, takeTurn, State.nextTurn, State.spendTurn, hs]
  · intro s hs hidle
    have hspent : s.spendTurn = s := by cases s; cases hs; rfl
    simp [step, takeTurn, State.nextTurn, hs, State.busy_eq_false_iff.mpr hidle, hspent]
  · refine ⟨fun _ _ _ => hostStep_write, fun _ _ _ => hostStep_read,
      fun hp => ⟨fun hbusy => ?_, fun hidle => ?_⟩, hostStep_check, fun _ => hostStep_onSuccess,
      fun hp => ⟨busRead_regOutLen_error s, hostStep_readResult hp⟩, hostStep_of_ended⟩
    · simp [hostStep_wait hp, State.busy_eq_true_iff.mpr hbusy]
    · simp [hostStep_wait hp, State.busy_eq_false_iff.mpr hidle]

/-! ### When the Host's step stops (R56, R246, R265) -/

/-- The next line of the Host is a read or write of `size` bytes at `a`. -/
def State.NextAccess (s : State) (a : BitVec 18) (size : Nat) : Prop :=
  ∃ rest, (∃ v, s.program = .write a size v :: rest) ∨ (∃ x, s.program = .read a size x :: rest)

/-- The Host's step faults on an access the bus refuses. -/
theorem hostStep_of_refused {s : State} {a : BitVec 18} {size : Nat} (hnext : s.NextAccess a size)
    (hg : s.admitted a size = none) : hostStep s = .fault (.busError a size) := by
  obtain ⟨rest, ⟨v, hp⟩ | ⟨x, hp⟩⟩ := hnext
  · rw [hostStep_write hp, if_pos (busWrite_error_iff.mpr hg)]
  · rw [hostStep_read hp, if_pos (busRead_error_iff.mpr hg)]

/-- The Host's step answers a next state unless its next line is an access the bus refuses. -/
theorem hostStep_answers {s : State} (h : ∀ a size, s.NextAccess a size → s.admitted a size ≠ none) :
    ∃ t, hostStep s = .next t := by
  cases hp : s.program with
  | nil => exact ⟨_, hostStep_of_ended hp⟩
  | cons op rest =>
    cases op with
    | write a size v =>
      have hg : s.admitted a size ≠ none := h a size ⟨rest, .inl ⟨v, hp⟩⟩
      exact ⟨_, (hostStep_write hp).trans (if_neg (busWrite_error_iff.not.mpr hg))⟩
    | read a size x =>
      have hg : s.admitted a size ≠ none := h a size ⟨rest, .inr ⟨x, hp⟩⟩
      exact ⟨_, (hostStep_read hp).trans (if_neg (busRead_error_iff.not.mpr hg))⟩
    | wait => exact ⟨_, hostStep_wait hp⟩
    | check => exact ⟨_, hostStep_check hp⟩
    | onSuccess n => exact ⟨_, hostStep_onSuccess hp⟩
    | readResult => exact ⟨_, hostStep_readResult hp⟩

/-! ### The lines left after the Host's step -/

/-- Every line left after the Host's step was left before it, or is a read of the words of OUT that a result read
before it goes on to. -/
theorem mem_program_of_hostStep {s t : State} {op : HostOp} (h : hostStep s = .next t) (hop : op ∈ t.program) :
    op ∈ s.program ∨ (.readResult ∈ s.program ∧ ∃ n, op ∈ resultReads s.maxBlocks n) := by
  cases hp : s.program with
  | nil =>
    rw [hostStep_of_ended hp] at h
    cases h
    exact .inl (hp ▸ hop)
  | cons line rest =>
    cases line with
    | write a size v =>
      rw [hostStep_write hp] at h
      split at h
      · cases h
      · cases h
        exact .inl (List.mem_cons_of_mem _ hop)
    | read a size x =>
      rw [hostStep_read hp] at h
      split at h
      · cases h
      · cases h
        exact .inl (List.mem_cons_of_mem _ hop)
    | wait =>
      rw [hostStep_wait hp] at h
      cases h
      split at hop
      · exact .inl (hp ▸ hop)
      · exact .inl (List.mem_cons_of_mem _ hop)
    | check =>
      rw [hostStep_check hp] at h
      cases h
      dsimp only at hop
      split at hop
      · exact .inl (List.mem_cons_of_mem _ hop)
      · cases hop
    | onSuccess n =>
      rw [hostStep_onSuccess hp] at h
      cases h
      dsimp only at hop
      split at hop
      · exact .inl (List.mem_cons_of_mem _ hop)
      · exact .inl (List.mem_cons_of_mem _ (List.mem_of_mem_drop hop))
    | readResult =>
      rw [hostStep_readResult hp] at h
      cases h
      rcases List.mem_append.mp hop with hop | hop
      · exact .inr ⟨List.mem_cons_self, _, hop⟩
      · exact .inl (List.mem_cons_of_mem _ hop)

end Sys2Proof.Machine
end

section
/-! PROOF. The steps of the system: every command completes, a step stops by a bus error alone, and what the Host's and
the Engine's steps leave as it was. -/

namespace Sys2Proof.Machine

/-! ### Every command completes (R241) -/

/-- The outcome is the completion of some state: neither a fault nor a refusal. -/
def Completes (o : Host.Outcome State Fault Refusal) : Prop := ∃ (u : State) (e : ErrorCode), o = .next (u.complete e)

theorem Completes.of_finish (u : State) : Completes (finish u) := ⟨u, _, rfl⟩

theorem Completes.of_raise (e : ErrorCode) (u : State) : Completes (raise e u) := ⟨u, e, rfl⟩

theorem Completes.of_requireKey (s u : State) {run : Host.Outcome State Fault Refusal} (h : Completes run) :
    Completes (requireKey s u run) := by
  cases hk : s.keyValid with
  | true => rwa [requireKey_of_key hk]
  | false => exact ⟨u, _, requireKey_of_noKey hk run⟩

/-- A check that raises, before what completes without it. -/
theorem Completes.of_check {c : Prop} [Decidable c] {e : ErrorCode} {u : State} {run : Host.Outcome State Fault Refusal}
    (h : Completes run) : Completes (if c then raise e u else run) := by
  split
  · exact .of_raise e u
  · exact h

theorem completes_execKeyExpand (s : State) : Completes (execKeyExpand s) := by
  unfold execKeyExpand
  split
  · exact .of_raise _ _
  · exact .of_finish _

theorem completes_execUnpad (s : State) : Completes (execUnpad s) := by
  refine .of_check ?_
  split
  · exact .of_raise _ _
  · exact .of_finish _

theorem completes_execCbcDec (s : State) : Completes (execCbcDec s) := by
  refine .of_requireKey s _ (.of_check (.of_check ?_))
  dsimp only
  split
  · exact .of_raise _ _
  · exact .of_finish _

/-- Every command completes in every state. -/
theorem completes_exec (i : Instr) (s : State) : Completes (exec i s) := by
  cases i with
  | keyExpand => exact completes_execKeyExpand s
  | unpad => exact completes_execUnpad s
  | cbcDec => exact completes_execCbcDec s
  | pad => exact .of_check (.of_finish _)
  | cbcEnc => exact .of_requireKey s _ (.of_check (.of_finish _))
  | addRoundKey rnd => exact .of_requireKey s _ (.of_check (.of_finish _))
  | blockEnc | blockDec => exact .of_requireKey s _ (.of_finish _)
  | nop | gfMul | keyClear | subBytes | invSubBytes | shiftRows | invShiftRows | mixColumns | invMixColumns =>
    exact .of_finish _

/-- The Engine's step always answers a next state. -/
theorem engineStep_answers (s : State) : ∃ t, engineStep s = .next t := by
  unfold engineStep
  split
  · exact ⟨s, rfl⟩
  · split
    · exact ⟨_, rfl⟩
    next i _ =>
      obtain ⟨u, e, h⟩ := completes_exec i s
      exact ⟨_, h⟩

/-! ### What a step leaves -/

/-- The Engine's step changes neither WDROP nor the capacity, the Host's program or the number of resets. -/
theorem engineStep_frame {s t : State} (h : engineStep s = .next t) :
    t.wdrop = s.wdrop ∧ t.maxBlocks = s.maxBlocks ∧ t.program = s.program ∧ t.resets = s.resets := by
  unfold engineStep at h
  split at h
  · cases h
    exact ⟨rfl, rfl, rfl, rfl⟩
  · split at h
    · rw [completeIllegal_eq_next.mp h]
      exact ⟨rfl, rfl, rfl, rfl⟩
    next i _ =>
      obtain ⟨-, -, -, -, -, -, -, hblocks, hdrop, hprog, -, -, hresets, -⟩ := commandsLeaveTheirInputs i s t h
      exact ⟨hdrop, hblocks, hprog, hresets⟩

/-- The Host's step changes neither the capacity nor the number of resets. -/
theorem hostStep_frame {s t : State} (h : hostStep s = .next t) :
    t.maxBlocks = s.maxBlocks ∧ t.resets = s.resets := by
  obtain ⟨u, p, r, d, rfl, rfl | rfl | ⟨a, v, g, -, -, rfl⟩⟩ := hostStep_eq_next h
  · exact ⟨rfl, rfl⟩
  · exact ⟨rfl, rfl⟩
  · exact ⟨s.writeTarget_maxBlocks v g, s.writeTarget_resets v g⟩

/-- The Host's step clears WDROP only by a command it issues while none is in flight (R60, R240). -/
theorem hostStep_wdrop {s t : State} (hdrop : s.wdrop = true) (h : hostStep s = .next t) :
    t.wdrop = true ∨ (s.pend = none ∧ t.pend ≠ none) := by
  obtain ⟨u, p, r, d, rfl, rfl | rfl | ⟨a, v, g, -, hidle, rfl⟩⟩ := hostStep_eq_next h
  · exact .inl hdrop
  · exact .inl rfl
  · rcases s.writeTarget_wdrop_or_accepts v g with hw | hp
    · exact .inl (hw.trans hdrop)
    · exact .inr ⟨State.busy_eq_false_iff.mp hidle, hp⟩

/-- Settles O28: the write is dropped by the bus; WDROP is kept by the Engine, and by the Host unless it issues a
command. -/
theorem writesWhileBusyAreDropped : Obligations.WritesWhileBusyAreDropped := by
  refine ⟨fun s a v hbusy ha hg => ?_, fun s t hdrop h => ?_⟩
  · obtain ⟨g, hg⟩ := Option.ne_none_iff_exists'.mp hg
    exact busWrite_dropped ((admitted_aligned ha).trans hg) hbusy v
  · rcases step_cases s with ⟨-, e⟩ | ⟨-, e⟩ | ⟨hreset, -⟩
    · exact (hostStep_wdrop (s := s.spendTurn) hdrop (e.symm.trans h)).imp_right .inr
    · obtain ⟨hw, -, -, -⟩ := engineStep_frame (e.symm.trans h)
      exact .inl (hw.trans hdrop)
    · exact .inr (.inl hreset)

/-- Settles O38: of the three things a Host step can do to the core, the effect of a write needs the core idle. -/
theorem hostStepsLeaveACommandInFlight : Obligations.HostStepsLeaveACommandInFlight := by
  intro s t hbusy h
  obtain ⟨u, p, r, d, rfl, rfl | rfl | ⟨a, v, g, -, hidle, -⟩⟩ := hostStep_eq_next h
  · rfl
  · rfl
  · exact absurd (State.busy_eq_false_iff.mp hidle) hbusy

/-! ### Exactly bus errors stop a step (R56, R246, R265) -/

/-- A step is the Host's on an access the bus refuses, which faults, or it answers a next state. -/
theorem step_faults_or_answers (s : State) :
    (∃ a size, s.nextTurn = .host ∧ s.NextAccess a size ∧ s.admitted a size = none ∧
      step s = .fault (.busError a size)) ∨ ∃ t, step s = .next t := by
  rcases step_cases s with ⟨hhost, e⟩ | ⟨-, e⟩ | ⟨-, e⟩
  · by_cases h : ∃ a size, s.NextAccess a size ∧ s.admitted a size = none
    · obtain ⟨a, size, hnext, hg⟩ := h
      exact .inl ⟨a, size, hhost, hnext, hg, e.trans (hostStep_of_refused (s := s.spendTurn) hnext hg)⟩
    · push Not at h
      obtain ⟨t, ht⟩ := hostStep_answers (s := s.spendTurn) h
      exact .inr ⟨t, e.trans ht⟩
  · obtain ⟨t, ht⟩ := engineStep_answers s.spendTurn
    exact .inr ⟨t, e.trans ht⟩
  · exact .inr ⟨_, e⟩

/-- A step on the Host's turn faults on an access the bus refuses. -/
theorem step_of_refused {s : State} {a : BitVec 18} {size : Nat} (hhost : s.nextTurn = .host)
    (hnext : s.NextAccess a size) (hg : s.admitted a size = none) : step s = .fault (.busError a size) := by
  have hstep : step s = hostStep s.spendTurn := by rw [step, hhost, takeTurn]
  rw [hstep]
  exact hostStep_of_refused (s := s.spendTurn) hnext hg

/-- Settles O40: a step that stops is the Host's on an access the bus refuses, and such a step stops. -/
theorem exactlyBusErrorsStopAStep : Obligations.ExactlyBusErrorsStopAStep := by
  intro s
  refine ⟨fun r hr => ?_, fun r => ⟨fun hr => ?_, ?_⟩, fun a size => admitted_eq_none_iff⟩
  · rcases step_faults_or_answers s with ⟨a, size, -, -, -, e⟩ | ⟨t, e⟩ <;> cases e.symm.trans hr
  · rcases step_faults_or_answers s with ⟨a, size, hhost, ⟨rest, hline⟩, hg, e⟩ | ⟨t, e⟩
    · cases e.symm.trans hr
      exact ⟨hhost, a, size, rest, rfl, hg, hline⟩
    · cases e.symm.trans hr
  · rintro ⟨hhost, a, size, rest, rfl, hg, hline⟩
    exact step_of_refused hhost ⟨rest, hline⟩ hg

/-! ### Admissible programs (R53, R56) -/

/-- The next access of an admissible program is admitted. -/
theorem State.ProgramAdmissible.admitted {s : State} (hs : s.ProgramAdmissible) {a : BitVec 18} {size : Nat}
    (hnext : s.NextAccess a size) : s.admitted a size ≠ none := by
  obtain ⟨rest, ⟨v, hp⟩ | ⟨x, hp⟩⟩ := hnext
  all_goals
    simp only [State.ProgramAdmissible, hp, List.all_cons, HostOp.admissible, Bool.and_eq_true, beq_iff_eq,
      Option.isSome_iff_ne_none] at hs
    obtain ⟨⟨⟨ha, hsize⟩, hmap⟩, -⟩ := hs
    rw [Ne, admitted_eq_none_iff]
    tauto

/-- Every read of a result is admissible in a build up to the limit of R10. -/
theorem admissible_of_mem_resultReads {m n : Nat} {op : HostOp} (hm : m ≤ Config.maxBlocksLimit)
    (h : op ∈ resultReads m n) : op.admissible m = true := by
  obtain ⟨j, hj, rfl⟩ := mem_resultReads h
  have hm' : m ≤ 4096 := hm
  have hbase : baseOut.toNat = 0x20000 := rfl
  have ha : (wordAddr baseOut j).toNat = baseOut.toNat + 4 * j := wordAddr_toNat (by omega)
  have hmap := busTarget_outputWindow (a := wordAddr baseOut j) hm' (by omega) (by omega)
  have haligned : (wordAddr baseOut j).toNat % 4 = 0 := by omega
  simp [HostOp.admissible, haligned, hmap]

/-- The lines left after a Host step are admissible if those before it were. -/
theorem hostStep_keeps_admissible {s t : State} (hs : s.ProgramAdmissible) (h : hostStep s = .next t) :
    t.ProgramAdmissible := by
  obtain ⟨hblocks, -⟩ := hostStep_frame h
  rw [State.ProgramAdmissible, List.all_eq_true] at hs ⊢
  intro op hop
  rw [hblocks]
  rcases mem_program_of_hostStep h hop with hold | ⟨hread, n, hnew⟩
  · exact hs op hold
  · have hlimit : s.maxBlocks ≤ Config.maxBlocksLimit := of_decide_eq_true (hs _ hread)
    exact admissible_of_mem_resultReads hlimit hnew

theorem engineStep_keeps_admissible {s t : State} (hs : s.ProgramAdmissible) (h : engineStep s = .next t) :
    t.ProgramAdmissible := by
  obtain ⟨-, hblocks, hprog, -⟩ := engineStep_frame h
  rwa [State.ProgramAdmissible, hblocks, hprog]

/-- Settles O41: no next access of such a program is refused, and each agent keeps the program admissible. -/
theorem admissibleProgramsNeverStop : Obligations.AdmissibleProgramsNeverStop := by
  intro s hs
  have hspent : s.spendTurn.ProgramAdmissible := hs
  rcases step_cases s with ⟨-, e⟩ | ⟨-, e⟩ | ⟨-, e⟩
  · obtain ⟨t, ht⟩ := hostStep_answers fun a size => hspent.admitted (a := a) (size := size)
    exact ⟨t, e.trans ht, hostStep_keeps_admissible hspent ht⟩
  · obtain ⟨t, ht⟩ := engineStep_answers s.spendTurn
    exact ⟨t, e.trans ht, engineStep_keeps_admissible hspent ht⟩
  · exact ⟨_, e, hs⟩

/-! ### Unwritten bytes (R291) -/

/-- A byte not written since reset reads as the free value of its buffer, the resets so far and its offset. -/
theorem State.bufferByte_of_unwritten {s : State} {b : Config.Buffer} {a : Nat}
    (h : Memory.get (s.buffer b) a = none) : s.bufferByte b a = Config.unwritten b s.resets a := by
  rw [State.bufferByte, h]

/-- Only a reset event advances the number of resets. -/
theorem step_resets {s t : State} (h : step s = .next t) (hturn : s.nextTurn ≠ .reset) : t.resets = s.resets := by
  rcases step_cases s with ⟨-, e⟩ | ⟨-, e⟩ | ⟨hreset, -⟩
  · obtain ⟨-, hresets⟩ := hostStep_frame (e.symm.trans h)
    exact hresets
  · obtain ⟨-, -, -, hresets⟩ := engineStep_frame (e.symm.trans h)
    exact hresets
  · exact absurd hreset hturn

/-- Settles O45: both reads are the free value, which the number of resets indexes. -/
theorem unwrittenBytesKeepTheirValue : Obligations.UnwrittenBytesKeepTheirValue := by
  intro s t b a h hturn hs ht
  rw [State.bufferByte_of_unwritten ht, State.bufferByte_of_unwritten hs, step_resets h hturn]

end Sys2Proof.Machine
end

section
/-! PROOF. The command word: a word is its four fields, it decodes exactly when its fields are those of a well-formed
command, and the Engine's turn runs the command in flight. -/

namespace Sys2Proof

/-! ### The fields of a word (R80) -/

/-- A word is its four fields put together, from bit 31 down. -/
theorem append_cmdFields (w : Word) : cmdReservedHigh w ++ cmdRnd w ++ cmdReservedLow w ++ cmdOp w = w := by
  have hrnd : cmdReservedHigh w ++ cmdRnd w = w.extractLsb' 8 24 :=
    BitVec.extractLsb'_append_extractLsb'_eq_extractLsb' rfl
  have hlow : w.extractLsb' 8 24 ++ cmdReservedLow w = w.extractLsb' 6 26 :=
    BitVec.extractLsb'_append_extractLsb'_eq_extractLsb' rfl
  have hop : w.extractLsb' 6 26 ++ cmdOp w = w.extractLsb' 0 32 :=
    BitVec.extractLsb'_append_extractLsb'_eq_extractLsb' rfl
  rw [hrnd, hlow, hop, BitVec.extractLsb'_eq_self]

/-- Words are equal exactly when their fields are. -/
theorem word_eq_iff_fields (w v : Word) : w = v ↔ cmdReservedHigh w = cmdReservedHigh v ∧
    cmdReservedLow w = cmdReservedLow v ∧ cmdOp w = cmdOp v ∧ cmdRnd w = cmdRnd v := by
  refine ⟨by rintro rfl; exact ⟨rfl, rfl, rfl, rfl⟩, ?_⟩
  rintro ⟨hhigh, hlow, hop, hrnd⟩
  rw [← append_cmdFields w, hhigh, hrnd, hlow, hop, append_cmdFields]

/-- The fields of a masked word are its fields masked by the mask's. -/
theorem fields_of_and (w m : Word) : cmdReservedHigh (w &&& m) = cmdReservedHigh w &&& cmdReservedHigh m ∧
    cmdReservedLow (w &&& m) = cmdReservedLow w &&& cmdReservedLow m ∧ cmdOp (w &&& m) = cmdOp w &&& cmdOp m ∧
    cmdRnd (w &&& m) = cmdRnd w &&& cmdRnd m :=
  ⟨BitVec.extractLsb'_and, BitVec.extractLsb'_and, BitVec.extractLsb'_and, BitVec.extractLsb'_and⟩

/-! ### The rows of the opcode map (R82, R84) -/

/-- A command without a round index is always well formed, has 0 in RND, a full mask, and an OP value of its own. -/
theorem row_of_ne_addRoundKey {i : Instr} (hi : ∀ r, i ≠ .addRoundKey r) :
    i.wellFormed = true ∧ rndFieldOf i = 0 ∧ maskOf i = 0xFFFFFFFF ∧ opcodeOf i ≠ 0x16#6 ∧
      commandOfOp (opcodeOf i).toNat = some i := by
  cases i with
  | addRoundKey r => exact absurd rfl (hi r)
  | _ => exact ⟨rfl, rfl, rfl, by decide, rfl⟩

/-- The command of an OP value has that OP value and takes no round index. -/
theorem opcodeOf_of_commandOfOp {n : Nat} {i : Instr} (h : commandOfOp n = some i) :
    (opcodeOf i).toNat = n ∧ ∀ r, i ≠ .addRoundKey r := by
  unfold commandOfOp at h
  split at h <;> cases h
  all_goals exact ⟨rfl, fun _ => Instr.noConfusion⟩

/-- The OP values without such a command: those unassigned (R85) and that of ADD_ROUND_KEY. -/
theorem commandOfOp_eq_none_iff (n : Nat) : commandOfOp n = none ↔ (0x0A ≤ n ∧ n ≤ 0x0F) ∨ 0x16 ≤ n := by
  fun_cases commandOfOp n
  case case17 =>
    simp only [imp_false, true_iff] at *
    omega
  all_goals decide

/-- The round index that a four-bit field holds. -/
theorem eq_ofNat_and_wellFormed_iff (b : BitVec 4) (r : Nat) :
    b = rndFieldOf (.addRoundKey r) ∧ (Instr.addRoundKey r).wellFormed = true ↔ r = b.toNat := by
  simp only [rndFieldOf, Instr.wellFormed, decide_eq_true_eq]
  constructor
  · rintro ⟨rfl, hr⟩
    exact (Nat.mod_eq_of_lt hr).symm
  · rintro rfl
    exact ⟨(BitVec.ofNat_toNat 4 b).symm, b.isLt⟩

/-! ### Decoding (R83, R85) -/

/-- A word decodes to a command exactly when its fields are those of the command, and the command is well formed. -/
theorem decode_eq_command_iff (w : Word) (i : Instr) : decode w = .command i ↔
    (cmdReservedHigh w = 0 ∧ cmdReservedLow w = 0 ∧ cmdOp w = opcodeOf i ∧ cmdRnd w = rndFieldOf i) ∧
      i.wellFormed = true := by
  constructor
  · intro h
    unfold decode at h
    split at h
    · cases h
    next hreserved =>
    obtain ⟨hhigh, hlow⟩ : cmdReservedHigh w = 0 ∧ cmdReservedLow w = 0 := by simpa using hreserved
    split at h
    next hop =>
      cases h
      obtain ⟨hrnd, hwf⟩ := (eq_ofNat_and_wellFormed_iff _ _).mpr rfl
      exact ⟨⟨hhigh, hlow, hop, hrnd⟩, hwf⟩
    split at h
    · cases h
    next hrnd =>
    split at h
    next j hj =>
      cases h
      obtain ⟨hop, hne⟩ := opcodeOf_of_commandOfOp hj
      obtain ⟨hwf, hfield, -⟩ := row_of_ne_addRoundKey hne
      exact ⟨⟨hhigh, hlow, (BitVec.eq_of_toNat_eq hop).symm, hfield ▸ not_not.mp hrnd⟩, hwf⟩
    · cases h
  · rintro ⟨⟨hhigh, hlow, hop, hrnd⟩, hwf⟩
    by_cases hi : ∃ r, i = .addRoundKey r
    · obtain ⟨r, rfl⟩ := hi
      rw [(eq_ofNat_and_wellFormed_iff (cmdRnd w) r).mp ⟨hrnd, hwf⟩]
      simp [decode, hhigh, hlow, hop, opcodeOf]
    · obtain ⟨-, hfield, -, hne, hcommand⟩ := row_of_ne_addRoundKey (not_exists.mp hi)
      simp [decode, hhigh, hlow, hop, hrnd, hfield, hne, hcommand]

/-- A word is illegal exactly when a reserved bit is 1, or it is no ADD_ROUND_KEY and has RND or an OP value it may not
have. -/
theorem decode_illegal_iff (w : Word) : (∃ why, decode w = .illegal why) ↔
    cmdReservedHigh w ≠ 0 ∨ cmdReservedLow w ≠ 0 ∨
      (cmdOp w ≠ 0x16 ∧ (cmdRnd w ≠ 0 ∨ commandOfOp (cmdOp w).toNat = none)) := by
  rw [← or_assoc, decode]
  split
  next hreserved => exact iff_of_true ⟨_, rfl⟩ (.inl hreserved)
  next hreserved =>
  split
  next hop =>
    refine iff_of_false (by rintro ⟨_, ⟨⟩⟩) ?_
    rintro (h | ⟨h, -⟩)
    · exact hreserved h
    · exact h hop
  next hop =>
  split
  next hrnd => exact iff_of_true ⟨_, rfl⟩ (.inr ⟨hop, .inl hrnd⟩)
  next hrnd =>
  cases commandOfOp (cmdOp w).toNat with
  | some i =>
    refine iff_of_false (by rintro ⟨_, ⟨⟩⟩) ?_
    rintro (h | ⟨-, h | ⟨⟨⟩⟩⟩)
    · exact hreserved h
    · exact hrnd h
  | none => exact iff_of_true ⟨_, rfl⟩ (.inr ⟨hop, .inr rfl⟩)

theorem Decoded.command?_eq_some_iff {d : Decoded} {i : Instr} : d.command? = some i ↔ d = .command i := by
  cases d <;> simp [Decoded.command?]

/-- A table word of 32 bits is the core's word of that number. -/
theorem ofNat_mod_two_pow_32 (w : Nat) : BitVec.ofNat 32 (w % 2 ^ 32) = BitVec.ofNat 32 w :=
  BitVec.eq_of_toNat_eq (Nat.mod_mod w _)

/-- The table's view of a word is the decoder's. -/
theorem decodeTableWord_eq_some_iff {w : Nat} {i : Instr} :
    decodeTableWord 32 w = some i ↔ decode (BitVec.ofNat 32 w) = .command i := by
  rw [decodeTableWord, ofNat_mod_two_pow_32, Decoded.command?_eq_some_iff]

/-- Settles O1: the fields of the encoded word are those of the command. -/
theorem decodeOfEncodeIsTheCommand : Obligations.DecodeOfEncodeIsTheCommand :=
  fun i hwf => (decode_eq_command_iff _ i).mpr ⟨Laws.CommandWord.of_fields i, hwf⟩

/-- Settles O2: the word and the encoding are put together from the same fields. -/
theorem decodedWordsAreEncodings : Obligations.DecodedWordsAreEncodings := by
  intro w i h
  obtain ⟨⟨hhigh, hlow, hop, hrnd⟩, hwf⟩ := (decode_eq_command_iff w i).mp h
  refine ⟨hwf, ?_⟩
  rw [← append_cmdFields w, hhigh, hlow, hop, hrnd]
  rfl

/-- Settles O5: each word is closed, and `decode` computes. -/
theorem sampleWordsDecode : Obligations.SampleWordsDecode := by
  unfold Obligations.SampleWordsDecode
  decide

/-! ### Match and mask (R84) -/

/-- The match value of a row has the row's OP and 0 in every other field. -/
theorem matchOf_fields (i : Instr) : cmdReservedHigh (matchOf i) = 0 ∧ cmdReservedLow (matchOf i) = 0 ∧
    cmdOp (matchOf i) = opcodeOf i ∧ cmdRnd (matchOf i) = 0 := by
  have hzeros : (0#20 ++ 0#4 ++ 0#2 : BitVec 26) = 0#26 := rfl
  have happend : matchOf i = 0#20 ++ 0#4 ++ 0#2 ++ opcodeOf i := by
    rw [hzeros]
    exact BitVec.setWidth_eq_append (by decide)
  rw [happend]
  exact Laws.CommandWord.fields_of_append 0 (opcodeOf i)

/-- A row's mask keeps the reserved bits and OP. -/
theorem maskOf_fields (i : Instr) : cmdReservedHigh (maskOf i) = BitVec.allOnes 20 ∧
    cmdReservedLow (maskOf i) = BitVec.allOnes 2 ∧ cmdOp (maskOf i) = BitVec.allOnes 6 := by
  unfold maskOf
  split <;> exact ⟨rfl, rfl, rfl⟩

/-- A word matches a row exactly when its reserved bits are 0, its OP is the row's, and its RND is 0 or masked out. -/
theorem match_iff_fields (w : Word) (i : Instr) : w &&& maskOf i = matchOf i ↔
    cmdReservedHigh w = 0 ∧ cmdReservedLow w = 0 ∧ cmdOp w = opcodeOf i ∧ cmdRnd w &&& cmdRnd (maskOf i) = 0 := by
  obtain ⟨hhigh, hlow, hop, hrnd⟩ := matchOf_fields i
  obtain ⟨mhigh, mlow, mop⟩ := maskOf_fields i
  obtain ⟨ahigh, alow, aop, arnd⟩ := fields_of_and w (maskOf i)
  rw [word_eq_iff_fields, ahigh, alow, aop, arnd, mhigh, mlow, mop, hhigh, hlow, hop, hrnd]
  simp only [BitVec.and_allOnes]

/-- A word decodes to a command without a round index exactly when it matches the command's row. -/
theorem decode_eq_command_iff_match (w : Word) {i : Instr} (hi : ∀ r, i ≠ .addRoundKey r) :
    decode w = .command i ↔ w &&& maskOf i = matchOf i := by
  obtain ⟨hwf, hfield, hmask, -⟩ := row_of_ne_addRoundKey hi
  have hones : cmdRnd (0xFFFFFFFF : Word) = BitVec.allOnes 4 := rfl
  rw [decode_eq_command_iff, match_iff_fields, hfield, hmask, hones, BitVec.and_allOnes]
  simp only [hwf, and_true]

/-- A word decodes to ADD_ROUND_KEY with an index exactly when it matches that row and RND holds the index. -/
theorem decode_eq_addRoundKey_iff_match (w : Word) (r : Nat) : decode w = .command (.addRoundKey r) ↔
    w &&& maskOf (.addRoundKey r) = matchOf (.addRoundKey r) ∧ r = (cmdRnd w).toNat := by
  have hmask : cmdRnd (maskOf (.addRoundKey r)) = 0 := by
    rw [maskOf]
    decide
  rw [decode_eq_command_iff, match_iff_fields, ← eq_ofNat_and_wellFormed_iff, hmask]
  simp [and_assoc]

/-- Settles O3: a row's match and mask speak of the fields the decoder reads; a row's OP is among them. -/
theorem matchAndMaskDecideTheCommand : Obligations.MatchAndMaskDecideTheCommand := by
  refine ⟨fun w i hi => ?_, decode_eq_addRoundKey_iff_match, fun w i j hwi hwj => ?_, rfl⟩
  · obtain ⟨-, -, hmask, -⟩ := row_of_ne_addRoundKey hi
    rw [decode_eq_command_iff_match w hi, hmask, matchOf]
  · obtain ⟨-, -, hopi, -⟩ := (match_iff_fields w i).mp hwi
    obtain ⟨-, -, hopj, -⟩ := (match_iff_fields w j).mp hwj
    exact hopi.symm.trans hopj

end Sys2Proof

namespace Sys2Proof.Machine

/-! ### Illegal words (R85, R243) -/

/-- A word is illegal exactly when R85 says so, its unassigned OP values written as ranges. -/
theorem decode_illegal_iff_ranges (w : Word) : (∃ why, decode w = .illegal why) ↔
    cmdReservedHigh w ≠ 0 ∨ cmdReservedLow w ≠ 0 ∨ (0x0A ≤ (cmdOp w).toNat ∧ (cmdOp w).toNat ≤ 0x0F) ∨
      0x17 ≤ (cmdOp w).toNat ∨ (cmdRnd w ≠ 0 ∧ cmdOp w ≠ 0x16) := by
  have hop : cmdOp w = 0x16 ↔ (cmdOp w).toNat = 0x16 := BitVec.toNat_inj.symm
  rw [decode_illegal_iff, commandOfOp_eq_none_iff, ne_eq (cmdOp w), hop]
  refine or_congr_right (or_congr_right ?_)
  by_cases hrnd : cmdRnd w = 0
  · simp only [hrnd, ne_eq, not_true_eq_false, false_or, false_and, or_false]
    omega
  · simp only [hrnd, ne_eq, not_false_eq_true, true_or, and_true, true_and]
    omega

/-- Settles O4: R85 read off the decoder's checks; the write is accepted, and the Engine's step completes the word. -/
theorem illegalWordsAreExactlyThese : Obligations.IllegalWordsAreExactlyThese := by
  refine ⟨decode_illegal_iff_ranges, fun s w hidle hillegal => ?_⟩
  obtain ⟨why, hwhy⟩ := hillegal
  have hwrite : busWrite s regCmd 4 w = ⟨false, 0, s.accept w⟩ := busWrite_idle hidle (admitted_regCmd s) w
  refine ⟨hwrite, ?_⟩
  rw [hwrite, engineStep_of_illegal (State.accept_pend s w) hwhy, State.complete, ← hidle]
  rfl

/-! ### The Engine's turn (R241, R246) -/

/-- The step on the Engine's turn, with a word in flight that decodes, is exec of the command. -/
theorem step_of_command {s : State} {w : Word} {i : Instr} (hturn : s.nextTurn = .engine) (hpend : s.pend = some w)
    (hdecode : decode w = .command i) : step s = exec i s.spendTurn := by
  rw [step, hturn, takeTurn]
  exact engineStep_of_command (s := s.spendTurn) hpend hdecode

/-- With a command in flight the turn is the Engine's when it is fixed so, and when none is fixed. -/
theorem State.nextTurn_eq_engine {s : State} {w : Word} (hpend : s.pend = some w)
    (hturn : s.schedule = [] ∨ s.schedule.head? = some .engine) : s.nextTurn = .engine := by
  rcases hturn with h | h
  · simp [State.nextTurn, h, State.busy, hpend]
  · obtain ⟨rest, h⟩ := List.head?_eq_some_iff.mp h
    simp [State.nextTurn, h]

/-- Settles O6: both states have the word in flight and the Engine's turn next. -/
theorem stepRunsTheCommandInFlight : Obligations.StepRunsTheCommandInFlight := by
  refine ⟨fun s w i hpend hdecode hturn => ?_, fun s w i htable => ?_⟩
  · exact step_of_command (State.nextTurn_eq_engine hpend hturn) hpend hdecode
  · have hdecode : decode (BitVec.ofNat 32 w) = .command i := decodeTableWord_eq_some_iff.mp htable
    rw [State.withFetchWord, ofNat_mod_two_pow_32]
    exact step_of_command (s := s.placeCommand _) rfl rfl hdecode

end Sys2Proof.Machine
end

section
/-! PROOF. GF(2^8): the laws of multiplication from three facts about the loop (it is additive, every additive map that
commutes with doubling passes through it, and 1 times a byte is the byte); the S-Box and the field inverse; the round
constants; GF_MUL. -/

namespace Sys2Proof.Machine

/-! ### Doubling and the loop (R100, R101)

The bytes 0 and 1 are written `0#8` and `1#8` here, the form `simp` brings literals to. -/

/-- Doubling is additive. -/
theorem xtime_xor (a b : Byte) : xtime (a ^^^ b) = xtime a ^^^ xtime b := by
  have hreduce : ∀ x y : Bool,
      (if x ^^ y then (0x1B : Byte) else 0) = (if x then 0x1B else 0) ^^^ (if y then 0x1B else 0) := by decide
  rw [xtime, xtime, xtime, BitVec.shiftLeft_xor_distrib, BitVec.getLsbD_xor, hreduce]
  ac_rfl

theorem gmulLoop_xor (k : Nat) (a a' b p p' : Byte) :
    gmulLoop k (a ^^^ a') b (p ^^^ p') = gmulLoop k a b p ^^^ gmulLoop k a' b p' := by
  induction k generalizing a a' b p p' with
  | zero => rfl
  | succ k ih =>
    simp only [gmulLoop, xtime_xor, ← ih]
    split
    · congr 1
      ac_rfl
    · rfl

section
variable {f : Byte → Byte} (hadd : ∀ x y, f (x ^^^ y) = f x ^^^ f y)
include hadd

theorem map_zero_of_additive : f 0#8 = 0#8 := by
  have h := hadd 0#8 0#8
  rwa [BitVec.xor_self, BitVec.xor_self] at h

variable (hdouble : ∀ x, f (xtime x) = xtime (f x))
include hdouble

/-- An additive map that commutes with doubling passes through the loop. -/
theorem map_gmulLoop (k : Nat) (a b p : Byte) : f (gmulLoop k a b p) = gmulLoop k (f a) b (f p) := by
  induction k generalizing a b p with
  | zero => rfl
  | succ k ih => rw [gmulLoop, gmulLoop, ih, hdouble, apply_ite f, hadd]

/-- Such a map moves to the left factor of a product. -/
theorem map_gmul (a b : Byte) : f (gmul a b) = gmul (f a) b :=
  (map_gmulLoop hadd hdouble 8 a b 0#8).trans (congrArg (gmulLoop 8 (f a) b) (map_zero_of_additive hadd))

end

/-! ### The laws of multiplication (R103) -/

theorem gmul_xor_left (a b c : Byte) : gmul (a ^^^ b) c = gmul a c ^^^ gmul b c := gmulLoop_xor 8 a b c 0#8 0#8

@[simp] theorem gmul_zero_left (a : Byte) : gmul 0#8 a = 0#8 :=
  map_zero_of_additive (f := (gmul · a)) (gmul_xor_left · · a)

theorem gmul_xtime_left (a b : Byte) : gmul (xtime a) b = xtime (gmul a b) :=
  (map_gmul xtime_xor (fun _ => rfl) a b).symm

/-- Multiplication by `c` is itself additive and commutes with doubling. -/
theorem gmul_right_comm (a b c : Byte) : gmul (gmul a b) c = gmul (gmul a c) b :=
  map_gmul (f := (gmul · c)) (gmul_xor_left · · c) (gmul_xtime_left · c) a b

/-- The product of 1 and `b` collects the bits of `b`: the loop's doublings of 1 stay below the reduction. -/
@[simp] theorem gmul_one_left : ∀ b : Byte, gmul 1#8 b = b := by decide +kernel

theorem gmul_comm (a b : Byte) : gmul a b = gmul b a := by
  have h := gmul_right_comm 1#8 a b
  rwa [gmul_one_left, gmul_one_left] at h

theorem gmul_assoc (a b c : Byte) : gmul (gmul a b) c = gmul a (gmul b c) := by
  rw [gmul_comm a b, gmul_right_comm, gmul_comm]

@[simp] theorem gmul_zero_right (a : Byte) : gmul a 0#8 = 0#8 := by rw [gmul_comm, gmul_zero_left]

@[simp] theorem gmul_one_right (a : Byte) : gmul a 1#8 = a := by rw [gmul_comm, gmul_one_left]

theorem gmul_xor_right (a b c : Byte) : gmul a (b ^^^ c) = gmul a b ^^^ gmul a c := by
  rw [gmul_comm, gmul_xor_left, gmul_comm b, gmul_comm c]

/-! ### The field inverse and the S-Box (R103-R105) -/

/-- The affine map of R104: bit `i` is the XOR of bits `i`, `i + 4`, `i + 5`, `i + 6` and `i + 7` modulo 8 and bit `i`
of 0x63. -/
def sboxAffine (b : Byte) : Byte :=
  b ^^^ b.rotateRight 4 ^^^ b.rotateRight 5 ^^^ b.rotateRight 6 ^^^ b.rotateRight 7 ^^^ 0x63

/-- The affine map read backwards. -/
def sboxUnaffine (b : Byte) : Byte := b.rotateRight 2 ^^^ b.rotateRight 5 ^^^ b.rotateRight 7 ^^^ 0x05

theorem sboxAffine_sboxUnaffine : ∀ b : Byte, sboxAffine (sboxUnaffine b) = b := by decide +kernel

/-- The field inverse of a byte other than 0, read off the S-Box; 0 at 0. -/
def gfInverse (a : Byte) : Byte := sboxUnaffine (sbox a)

theorem sboxAffine_gfInverse (a : Byte) : sboxAffine (gfInverse a) = sbox a := sboxAffine_sboxUnaffine (sbox a)

/-- Each of the 255 entries of the S-Box but that of 0 holds the inverse of its byte. -/
theorem gmul_gfInverse : ∀ a : Byte, a ≠ 0#8 → gmul a (gfInverse a) = 1#8 := by decide +kernel

/-- A byte has at most one inverse. -/
theorem gmul_inverse_unique {a b c : Byte} (hb : gmul a b = 1#8) (hc : gmul a c = 1#8) : b = c := by
  calc
    b = gmul (gmul a c) b := by rw [hc, gmul_one_left]
    _ = gmul (gmul a b) c := gmul_right_comm a c b
    _ = c := by rw [hb, gmul_one_left]

theorem eq_gfInverse_of_gmul_eq_one {a b : Byte} (h : gmul a b = 1#8) : b = gfInverse a := by
  have ha : a ≠ 0#8 := by
    rintro rfl
    rw [gmul_zero_left] at h
    exact absurd h (by decide)
  exact gmul_inverse_unique h (gmul_gfInverse a ha)

/-- Settles O49: the laws follow from those of the loop, and the S-Box holds the inverses. -/
theorem gfMultiplicationIsAField : Obligations.GfMultiplicationIsAField :=
  ⟨fun a => ⟨gmul_zero_right a, gmul_zero_left a⟩, fun a => ⟨gmul_one_right a, gmul_one_left a⟩, gmul_comm,
    gmul_xor_right, gmul_assoc, fun a ha => ⟨gfInverse a, gmul_gfInverse a ha, fun _ => eq_gfInverse_of_gmul_eq_one⟩⟩

@[simp] theorem invSbox_sbox : ∀ x : Byte, invSbox (sbox x) = x := by decide +kernel

@[simp] theorem sbox_invSbox : ∀ x : Byte, sbox (invSbox x) = x := by decide +kernel

/-- Settles O50: `y` is the inverse of `x`, from which the S-Box entry of `x` is made. -/
theorem sboxIsAffineOfInverse : Obligations.SboxIsAffineOfInverse := by
  refine ⟨rfl, fun x y hxy => ?_, fun x => ⟨invSbox_sbox x, sbox_invSbox x⟩⟩
  have hy : y = gfInverse x := eq_gfInverse_of_gmul_eq_one hxy
  rw [← sboxAffine_gfInverse, ← hy, sboxAffine]

/-! ### The round constants (R101, R106) -/

theorem gmul_two_right (a : Byte) : gmul a 0x02 = xtime a := by
  have htwo : (0x02 : Byte) = xtime 1#8 := rfl
  rw [gmul_comm, htwo, gmul_xtime_left, gmul_one_left]

theorem rcon_succ {n : Nat} (hn : 1 ≤ n) : rcon (n + 1) = xtime (rcon n) := by
  cases n with
  | zero => contradiction
  | succ n => rfl

/-- 51 doublings bring 1 back, and from there on the sequence repeats. -/
theorem rcon_add_51 {n : Nat} (hn : 1 ≤ n) : rcon (n + 51) = rcon n := by
  induction n, hn using Nat.le_induction with
  | base => decide +kernel
  | succ n hn ih => rw [Nat.add_right_comm, rcon_succ (by omega), ih, rcon_succ hn]

/-- Settles O51: doubling is multiplication by 2, and the constants follow by doubling. -/
theorem roundConstantsAreDoublings : Obligations.RoundConstantsAreDoublings :=
  ⟨gmul_two_right, rfl, rfl, fun _ => rcon_succ, fun _ => rcon_add_51, by decide +kernel⟩

/-! ### GF_MUL (R108) -/

/-- A byte zero-extended to a word has bits 31:8 zero. -/
theorem highBits_zeroExtend (b : Byte) : (b.zeroExtend 32).extractLsb' 8 24 = 0 := by
  apply BitVec.eq_of_getLsbD_eq
  intro i hi
  simp

theorem exec_gfMul (s : State) : exec .gfMul s = .next ({ s with gfP := gmul s.gfA s.gfB }.complete .noError) := rfl

/-- Settles O8: the command's equation, the laws of the product, and the three closed products. -/
theorem gfMulWritesTheProduct : Obligations.GfMulWritesTheProduct :=
  ⟨rfl, exec_gfMul, fun a => ⟨gmul_zero_right a, gmul_zero_left a, gmul_one_right a⟩, by decide +kernel,
    by decide +kernel, by decide +kernel, fun s => highBits_zeroExtend s.gfP⟩

end Sys2Proof.Machine
end

section
/-! PROOF. The key schedule: which key lengths have a round count, what the words of the expansion are made of, and the
commands KEY_EXPAND and KEY_CLEAR. -/

namespace Sys2Proof.Machine

/-! ### Key lengths and round counts (R130) -/

theorem roundsForKey_eq_some_iff {n nr : Nat} :
    roundsForKey n = some nr ↔ n = 16 ∧ nr = 10 ∨ n = 24 ∧ nr = 12 ∨ n = 32 ∧ nr = 14 := by
  unfold roundsForKey
  split <;> simp_all [eq_comm]

theorem roundsForKey_eq_none {n : Nat} (h16 : n ≠ 16) (h24 : n ≠ 24) (h32 : n ≠ 32) : roundsForKey n = none := by
  refine Option.eq_none_iff_forall_ne_some.mpr fun nr h => ?_
  have := roundsForKey_eq_some_iff.mp h
  omega

/-! ### Key words (R132, R133, R134) -/

@[simp] theorem getElem_keyWordAt (W : List Byte) (i : Nat) {j : Nat} (hj : j < 4) :
    (keyWordAt W i)[j] = W.getD (i + j) 0 := by simp [keyWordAt]

@[simp] theorem getElem_xorKeyWord (t u : KeyWord) {j : Nat} (hj : j < 4) : (xorKeyWord t u)[j] = t[j] ^^^ u[j] := by
  simp [xorKeyWord]

theorem subKeyWord_eq (t : KeyWord) : subKeyWord t = #v[sbox t[0], sbox t[1], sbox t[2], sbox t[3]] := by
  ext j hj
  rw [subKeyWord, Vector.getElem_map]
  interval_cases j <;> rfl

theorem scheduleCore_eq (it : Nat) (t : KeyWord) :
    scheduleCore it t = #v[sbox t[1] ^^^ rcon it, sbox t[2], sbox t[3], sbox t[0]] := by
  rw [scheduleCore, subKeyWord_eq]
  rfl

/-- A word inside the bytes so far is the same word of every extension of them. -/
theorem keyWordAt_of_extension {W W' : List Byte} {i : Nat} (hW : W <+: W') (hi : i + 4 ≤ W.length) :
    keyWordAt W' i = keyWordAt W i := by
  ext j hj : 1
  obtain ⟨V, rfl⟩ := hW
  rw [getElem_keyWordAt, getElem_keyWordAt, List.getD_append _ _ _ _ (by omega)]

/-- The word appended to the bytes so far is the word at their end. -/
theorem keyWordAt_append_word (W : List Byte) (t : KeyWord) : keyWordAt (W ++ t.toList) W.length = t := by
  ext j hj : 1
  rw [getElem_keyWordAt, List.getD_append_right _ _ _ _ (by omega), Nat.add_sub_cancel_left]
  simp [hj]

/-- A new word is made of the bytes before its position, which every extension of them has too. -/
theorem newKeyWord_of_extension {n it : Nat} {W W' : List Byte} (hW : W <+: W') (hn : 4 ≤ n) (hlen : n ≤ W.length) :
    newKeyWord n W.length it W' = newKeyWord n W.length it W := by
  rw [newKeyWord, newKeyWord, keyWordAt_of_extension hW (by omega), keyWordAt_of_extension hW (by omega)]

/-! ### The Rcon counter (R133, R135) -/

/-- The Rcon counter of the loop at byte position `i`: the first multiple of `n` from `i` on, divided by `n`. -/
def rconCounter (n i : Nat) : Nat := (i + n - 1) / n

theorem rconCounter_of_multiple {n i : Nat} (hn : 0 < n) (hi : i % n = 0) : rconCounter n i = i / n := by
  obtain ⟨q, rfl⟩ := Nat.dvd_of_mod_eq_zero hi
  rw [rconCounter, Nat.mul_div_cancel_left q hn, Nat.add_sub_assoc hn, Nat.mul_add_div hn,
    Nat.div_eq_of_lt (Nat.sub_lt hn Nat.one_pos), Nat.add_zero]

/-- The loop counts on exactly when it leaves a multiple of the key length. -/
theorem rconCounter_add_four {n i : Nat} (hn : n = 16 ∨ n = 24 ∨ n = 32) (hi : i % 4 = 0) :
    rconCounter n (i + 4) = if i % n = 0 then rconCounter n i + 1 else rconCounter n i := by
  unfold rconCounter
  rcases hn with rfl | rfl | rfl <;> split <;> omega

/-- The counter matters at multiples of the key length alone, where it is the multiple. -/
theorem newKeyWord_rconCounter {n : Nat} (hn : 0 < n) (i : Nat) (W : List Byte) :
    newKeyWord n i (rconCounter n i) W = newKeyWord n i (i / n) W := by
  have h : ∀ t, transformKeyWord n i (rconCounter n i) t = transformKeyWord n i (i / n) t := by
    intro t
    by_cases hi : i % n = 0
    · rw [rconCounter_of_multiple hn hi]
    · simp only [transformKeyWord, if_neg hi]
  rw [newKeyWord, newKeyWord, h]

/-! ### The loop (R135) -/

/-- The loop keeps the bytes it starts from. -/
theorem expandLoop_extends (n k i it : Nat) (W : List Byte) : W <+: expandLoop n k i it W := by
  induction k generalizing i it W with
  | zero => exact ⟨[], W.append_nil⟩
  | succ k ih => exact List.IsPrefix.trans ⟨_, rfl⟩ (ih _ _ _)

/-- The first word the loop appends is the new word of the bytes it starts from, and of those it ends with. -/
theorem expandLoop_firstWord {n : Nat} (hn : 4 ≤ n) (k it : Nat) {W : List Byte} (hlen : n ≤ W.length) :
    let E := expandLoop n (k + 1) W.length it W
    keyWordAt E W.length = newKeyWord n W.length it E := by
  intro E
  have hnext : W ++ (newKeyWord n W.length it W).toList <+: E := expandLoop_extends n k _ _ _
  calc
    keyWordAt E W.length = keyWordAt (W ++ (newKeyWord n W.length it W).toList) W.length :=
      keyWordAt_of_extension hnext (by simp)
    _ = newKeyWord n W.length it W := keyWordAt_append_word W _
    _ = newKeyWord n W.length it E := (newKeyWord_of_extension (expandLoop_extends n _ _ _ W) hn hlen).symm

/-- Every word the loop appends follows the recurrence, when the counter it starts with is that of its position. -/
theorem expandLoop_word {n : Nat} (hn : n = 16 ∨ n = 24 ∨ n = 32) (k : Nat) {i j : Nat} {W : List Byte}
    (hlen : W.length = i) (hni : n ≤ i) (hi : i % 4 = 0) (hij : i ≤ j) (hjk : j < i + 4 * k) (hj : j % 4 = 0) :
    let E := expandLoop n k i (rconCounter n i) W
    keyWordAt E j = newKeyWord n j (j / n) E := by
  induction k generalizing i W with
  | zero => omega
  | succ k ih =>
    rcases hij.eq_or_lt with rfl | hlt
    · subst hlen
      exact (expandLoop_firstWord (by omega) k _ hni).trans (newKeyWord_rconCounter (by omega) _ _)
    · rw [expandLoop, ← rconCounter_add_four hn hi]
      exact ih (by simp [hlen]) (by omega) (by omega) (by omega) (by omega)

/-! ### The expanded key (R131, R132, R134) -/

section
variable {key : List Byte} {nr : Nat} (h : roundsForKey key.length = some nr)
include h

theorem keyExpansion_length : (keyExpansion key nr).length = 16 * (nr + 1) := by
  have hnr := roundsForKey_eq_some_iff.mp h
  rw [keyExpansion, expandLoop_length]
  omega

theorem keyExpansion_word {i : Nat} (hkey : key.length ≤ i) (hi : i < 16 * (nr + 1)) (hword : i % 4 = 0) :
    keyWordAt (keyExpansion key nr) i = newKeyWord key.length i (i / key.length) (keyExpansion key nr) := by
  have hnr := roundsForKey_eq_some_iff.mp h
  have hone : rconCounter key.length key.length = 1 := by
    rw [rconCounter_of_multiple (by omega) (Nat.mod_self _), Nat.div_self (by omega)]
  rw [keyExpansion, ← hone]
  exact expandLoop_word (by omega) _ rfl le_rfl (by omega) hkey (by omega) hword

end

theorem take_keyExpansion (key : List Byte) (nr : Nat) : (keyExpansion key nr).take key.length = key := by
  obtain ⟨V, hV⟩ := expandLoop_extends key.length ((16 * (nr + 1) - key.length) / 4) key.length 1 key
  rw [keyExpansion, ← hV, List.take_left]

/-- Settles O54: by induction over the loop, whose counter at each position is the next multiple of the key length. -/
theorem keyExpansionFollowsTheRecurrence : Obligations.KeyExpansionFollowsTheRecurrence := by
  intro key nr h
  exact ⟨fun i j => getElem_keyWordAt _ i j.isLt, fun t u j => getElem_xorKeyWord t u j.isLt, scheduleCore_eq,
    subKeyWord_eq, keyExpansion_length h, take_keyExpansion key nr, fun i => keyExpansion_word h⟩

/-! ### KEY_EXPAND (R136) -/

theorem exec_keyExpand_of_rounds {s : State} {nr : Nat} (h : roundsForKey s.keyLen.toNat = some nr) :
    exec .keyExpand s =
      .next ((s.storeExpandedKey (roundKeyStore (keyExpansion s.keyOperand nr)) nr).complete .noError) := by
  rw [exec, execKeyExpand, h]
  rfl

theorem exec_keyExpand_of_illegalLength {s : State} (h : roundsForKey s.keyLen.toNat = none) :
    exec .keyExpand s = .next (s.dropExpandedKey.complete .invalidKeySize) := by
  rw [exec, execKeyExpand, h]
  rfl

@[simp] theorem getElem_roundKeyStore (W : List Byte) {j : Nat} (hj : j < 240) :
    (roundKeyStore W)[j] = W.getD j 0 := by simp [roundKeyStore]

/-- Settles O9: one equation for each outcome of R136; past its length the expansion reads as zero. -/
theorem keyExpandStoresOrDropsTheKey : Obligations.KeyExpandStoresOrDropsTheKey := by
  refine ⟨rfl, fun s n nr hn hnr => ?_, fun s h16 h24 h32 => ?_⟩
  · subst hn
    have hrounds : roundsForKey s.keyLen.toNat = some nr := roundsForKey_eq_some_iff.mpr hnr
    refine ⟨roundKeyStore (keyExpansion s.keyOperand nr), exec_keyExpand_of_rounds hrounds, fun j hj => ?_⟩
    have hlen : (keyExpansion s.keyOperand nr).length = 16 * (nr + 1) :=
      keyExpansion_length (by rwa [State.keyOperand_length hrounds])
    rw [getElem_roundKeyStore]
    split
    · rfl
    · exact List.getD_eq_default _ _ (by omega)
  · exact exec_keyExpand_of_illegalLength (roundsForKey_eq_none h16 h24 h32)

/-! ### KEY_CLEAR (R137) -/

theorem exec_keyClear (s : State) : exec .keyClear s = .next (s.eraseKey.dropExpandedKey.complete .noError) := rfl

/-- Settles O10: the command's equation. -/
theorem keyClearErasesTheKey : Obligations.KeyClearErasesTheKey := ⟨rfl, exec_keyClear⟩

/-- Settles O26: KEY_CLEAR overwrites each of the four fields the states may differ in. -/
theorem keyClearForgetsTheKey : Obligations.KeyClearForgetsTheKey := by
  intro s t h
  rw [exec_keyClear, exec_keyClear, h]
  rfl

end Sys2Proof.Machine
end

section
/-! PROOF. The block transform: the two views of a block, the round operations and their inverses, and the ciphers, each
of which takes the other back. -/

namespace Sys2Proof.Machine

/-! ### Block and state (R160, R161) -/

@[simp] theorem getElem_buildMatrix (f : Fin 4 → Fin 4 → Byte) (r c : Fin 4) : (buildMatrix f)[r][c] = f r c := by
  simp [buildMatrix]

/-- A state matrix is its entries. -/
theorem matrix_ext {m m' : StateMatrix} (h : ∀ r c : Fin 4, m[r][c] = m'[r][c]) : m = m' := by
  ext r hr c hc : 2
  exact h ⟨r, hr⟩ ⟨c, hc⟩

/-- Byte `j` of a block is entry `(j mod 4, j div 4)`. -/
theorem getElem_blockOf (m : StateMatrix) {j : Nat} (hj : j < 16) : (blockOf m)[j] = m[j % 4][j / 4] := by
  simp [blockOf]

/-- Byte `r + 4c` of a block is entry `(r, c)`. -/
theorem getElem_blockOf_entry (m : StateMatrix) (r c : Fin 4) : (blockOf m)[r.val + 4 * c.val] = m[r][c] := by
  have hrow : (r.val + 4 * c.val) % 4 = r := by omega
  have hcolumn : (r.val + 4 * c.val) / 4 = c := by omega
  simp only [getElem_blockOf, hrow, hcolumn, Fin.getElem_fin]

theorem getElem_stateOf (b : Block) (r c : Fin 4) : (stateOf b)[r][c] = b[r.val + 4 * c.val] :=
  getElem_buildMatrix _ r c

/-- Blocks are equal when their bytes are, each named by its row and column. -/
theorem block_ext {b b' : Block} (h : ∀ r c : Fin 4, b[r.val + 4 * c.val] = b'[r.val + 4 * c.val]) : b = b' := by
  ext j hj : 1
  simpa only [Nat.mod_add_div] using h ⟨j % 4, by omega⟩ ⟨j / 4, by omega⟩

@[simp] theorem blockOf_stateOf (b : Block) : blockOf (stateOf b) = b :=
  block_ext fun r c => by rw [getElem_blockOf_entry, getElem_stateOf]

@[simp] theorem stateOf_blockOf (m : StateMatrix) : stateOf (blockOf m) = m :=
  matrix_ext fun r c => by rw [getElem_stateOf, getElem_blockOf_entry]

/-- Settles O52: byte `r + 4c` and entry `(r, c)` are one, in both directions. -/
theorem blockAndStateViewsAgree : Obligations.BlockAndStateViewsAgree :=
  ⟨getElem_stateOf, blockOf_stateOf, stateOf_blockOf⟩

/-! ### The round operations and their inverses (R162-R168) -/

@[simp] theorem invSubBytes_subBytes (m : StateMatrix) : invSubBytes (subBytes m) = m :=
  matrix_ext fun r c => by rw [invSubBytes, subBytes, getElem_buildMatrix, getElem_buildMatrix, invSbox_sbox]

@[simp] theorem subBytes_invSubBytes (m : StateMatrix) : subBytes (invSubBytes m) = m :=
  matrix_ext fun r c => by rw [invSubBytes, subBytes, getElem_buildMatrix, getElem_buildMatrix, sbox_invSbox]

@[simp] theorem invShiftRows_shiftRows (m : StateMatrix) : invShiftRows (shiftRows m) = m :=
  matrix_ext fun r c => by simp only [invShiftRows, shiftRows, getElem_buildMatrix, sub_add_cancel]

@[simp] theorem shiftRows_invShiftRows (m : StateMatrix) : shiftRows (invShiftRows m) = m :=
  matrix_ext fun r c => by simp only [invShiftRows, shiftRows, getElem_buildMatrix, add_sub_cancel_right]

/-- Four shifts move row `r` by `4r` places, which is none. -/
theorem shiftRows_four_times (m : StateMatrix) : shiftRows (shiftRows (shiftRows (shiftRows m))) = m := by
  have hturn : ∀ r c : Fin 4, c + r + r + r + r = c := by decide
  refine matrix_ext fun r c => ?_
  simp only [shiftRows, getElem_buildMatrix, hturn]

@[simp] theorem addRoundKey_addRoundKey (rk : Vector Byte 240) (m : StateMatrix) (k : Nat) :
    addRoundKey rk (addRoundKey rk m k) k = m :=
  matrix_ext fun r c => by
    rw [addRoundKey, addRoundKey, getElem_buildMatrix, getElem_buildMatrix, BitVec.xor_assoc, BitVec.xor_self,
      BitVec.xor_zero]

/-! ### Columns multiplied by a matrix (R166, R167) -/

theorem getElem_mulColumns (m s : StateMatrix) {r c : Nat} (hr : r < 4) (hc : c < 4) : (mulColumns m s)[r][c] =
    gmul m[r][0] s[0][c] ^^^ gmul m[r][1] s[1][c] ^^^ gmul m[r][2] s[2][c] ^^^ gmul m[r][3] s[3][c] :=
  getElem_buildMatrix _ ⟨r, hr⟩ ⟨c, hc⟩

/-- Two multiplications in a row are one by the product of the matrices. -/
theorem mulColumns_mulColumns (m n s : StateMatrix) :
    mulColumns m (mulColumns n s) = mulColumns (mulColumns m n) s := by
  refine matrix_ext fun r c => ?_
  simp only [Fin.getElem_fin, getElem_mulColumns, gmul_xor_left, gmul_xor_right, gmul_assoc]
  ac_rfl

/-- The unit matrix over GF(2^8). -/
def unitMatrix : StateMatrix := buildMatrix fun r c => if r = c then 1 else 0

theorem mulColumns_unitMatrix (s : StateMatrix) : mulColumns unitMatrix s = s := by
  refine matrix_ext fun r c => ?_
  rw [Fin.getElem_fin, Fin.getElem_fin, getElem_mulColumns]
  fin_cases r <;> simp [unitMatrix, buildMatrix]

theorem mulColumns_invMixMatrix_mixMatrix : mulColumns invMixMatrix mixMatrix = unitMatrix := by decide +kernel

theorem mulColumns_mixMatrix_invMixMatrix : mulColumns mixMatrix invMixMatrix = unitMatrix := by decide +kernel

@[simp] theorem invMixColumns_mixColumns (m : StateMatrix) : invMixColumns (mixColumns m) = m := by
  rw [invMixColumns, mixColumns, mulColumns_mulColumns, mulColumns_invMixMatrix_mixMatrix, mulColumns_unitMatrix]

@[simp] theorem mixColumns_invMixColumns (m : StateMatrix) : mixColumns (invMixColumns m) = m := by
  rw [invMixColumns, mixColumns, mulColumns_mulColumns, mulColumns_mixMatrix_invMixMatrix, mulColumns_unitMatrix]

/-- Settles O53: entry by entry, and for the columns by the product of the two matrices. -/
theorem roundOperationsAreInverted : Obligations.RoundOperationsAreInverted := fun m =>
  ⟨invSubBytes_subBytes m, subBytes_invSubBytes m, invShiftRows_shiftRows m, shiftRows_invShiftRows m,
    invMixColumns_mixColumns m, mixColumns_invMixColumns m, fun rk => addRoundKey_addRoundKey rk m⟩

/-! ### The ciphers (R169-R171) -/

/-- If `g` takes the step of `f` back under the wrapping `p`, the steps of `g` in reverse order take all of `f` back. -/
theorem foldl_reverse_undoes_foldl {α β : Type} {f g : β → α → β} {p : β → β}
    (h : ∀ y i, g (p (f y i)) i = p y) (l : List α) (y : β) : l.reverse.foldl g (p (l.foldl f y)) = p y := by
  induction l generalizing y with
  | nil => rfl
  | cons i l ih => rw [List.foldl_cons, List.reverse_cons, List.foldl_concat, ih, h]

/-- A round of the inverse cipher takes a round of the forward cipher back between SubBytes and ShiftRows. -/
theorem decryptRound_encryptRound (rk : Vector Byte 240) (m : StateMatrix) (i : Nat) :
    decryptRound rk (shiftRows (subBytes (encryptRound rk m i))) i = shiftRows (subBytes m) := by
  simp [decryptRound, encryptRound]

/-- A round of the forward cipher takes a round of the inverse cipher back between InvShiftRows and InvSubBytes. -/
theorem encryptRound_decryptRound (rk : Vector Byte 240) (m : StateMatrix) (i : Nat) :
    encryptRound rk (invSubBytes (invShiftRows (decryptRound rk m i))) i = invSubBytes (invShiftRows m) := by
  simp [decryptRound, encryptRound]

@[simp] theorem decrypt_encrypt (rk : Vector Byte 240) (nr : Nat) (b : Block) :
    decrypt rk nr (encrypt rk nr b) = b := by
  have hrounds := foldl_reverse_undoes_foldl (p := fun m => shiftRows (subBytes m)) (decryptRound_encryptRound rk)
  simp only [decrypt, encrypt, stateOf_blockOf, addRoundKey_addRoundKey, hrounds, invShiftRows_shiftRows,
    invSubBytes_subBytes, blockOf_stateOf]

@[simp] theorem encrypt_decrypt (rk : Vector Byte 240) (nr : Nat) (b : Block) :
    encrypt rk nr (decrypt rk nr b) = b := by
  have hrounds := foldl_reverse_undoes_foldl (p := fun m => invSubBytes (invShiftRows m))
    (encryptRound_decryptRound rk) (List.range' 1 (nr - 1)).reverse
  rw [List.reverse_reverse] at hrounds
  simp only [decrypt, encrypt, stateOf_blockOf, addRoundKey_addRoundKey, hrounds, subBytes_invSubBytes,
    shiftRows_invShiftRows, blockOf_stateOf]

/-- Settles O55: it holds under any round keys. -/
theorem decryptionInvertsEncryption : Obligations.DecryptionInvertsEncryption := fun _ nr b _ =>
  ⟨decrypt_encrypt _ nr b, encrypt_decrypt _ nr b⟩

end Sys2Proof.Machine
end

section
/-! PROOF. The commands that apply the block transform to DATA: each command alone, single steps in a row, and the
single steps in cipher order. -/

namespace Sys2Proof.Machine

/-! ### Command sequences (R245) -/

/-- `s` after commands that left `d` in DATA, changed no other operand and ended without error. -/
def State.finishedWith (s : State) (d : Block) : State := { s with data := d, err := .noError, pend := none }

@[simp] theorem State.finishedWith_keyValid (s : State) (d : Block) : (s.finishedWith d).keyValid = s.keyValid := rfl
@[simp] theorem State.finishedWith_nr (s : State) (d : Block) : (s.finishedWith d).nr = s.nr := rfl
@[simp] theorem State.finishedWith_data (s : State) (d : Block) : (s.finishedWith d).data = d := rfl
@[simp] theorem State.finishedWith_rk (s : State) (d : Block) : (s.finishedWith d).rk = s.rk := rfl

theorem finish_withData (s : State) (d : Block) : finish (s.withData d) = .next (s.finishedWith d) := rfl

theorem stepData_eq (f : StateMatrix → StateMatrix) (s : State) :
    stepData f s = .next (s.finishedWith (blockOf (f (stateOf s.data)))) := finish_withData s _

/-- What the commands before left in DATA is overwritten. -/
@[simp] theorem State.finishedWith_finishedWith (s : State) (d d' : Block) :
    (s.finishedWith d).finishedWith d' = s.finishedWith d' := rfl

theorem execAll_cons {i : Instr} {s t : State} (h : exec i s = .next t) (is : List Instr) :
    execAll (i :: is) s = execAll is t := by
  rw [execAll, h]

/-! ### The block commands (R171, R180, R181) -/

section
variable {s : State} (h : s.keyValid = true)
include h

theorem exec_blockEnc_of_key : exec .blockEnc s = .next (s.finishedWith (encrypt s.rk s.rounds s.data)) :=
  (requireKey_of_key h _).trans (finish_withData s _)

theorem exec_blockDec_of_key : exec .blockDec s = .next (s.finishedWith (decrypt s.rk s.rounds s.data)) :=
  (requireKey_of_key h _).trans (finish_withData s _)

theorem execAll_blockEnc_blockDec : execAll [.blockEnc, .blockDec] s = .next (s.finishedWith s.data) := by
  have hkey : ∀ d, (s.finishedWith d).keyValid = true := fun _ => h
  rw [execAll_cons (exec_blockEnc_of_key h), execAll_cons (exec_blockDec_of_key (hkey _)), execAll]
  simp [State.rounds]

theorem execAll_blockDec_blockEnc : execAll [.blockDec, .blockEnc] s = .next (s.finishedWith s.data) := by
  have hkey : ∀ d, (s.finishedWith d).keyValid = true := fun _ => h
  rw [execAll_cons (exec_blockDec_of_key h), execAll_cons (exec_blockEnc_of_key (hkey _)), execAll]
  simp [State.rounds]

end

/-- Settles O11: the commands' equations with a key and without. -/
theorem blockCommandsTransformData : Obligations.BlockCommandsTransformData :=
  ⟨rfl, rfl, fun _ => ⟨fun h => ⟨exec_blockEnc_of_key h, exec_blockDec_of_key h⟩,
    fun h => ⟨requireKey_of_noKey h _, requireKey_of_noKey h _⟩⟩⟩

/-- Settles O56: the second command completes with DATA transformed forth and back. -/
theorem blockCommandsUndoEachOther : Obligations.BlockCommandsUndoEachOther := fun _ h =>
  ⟨execAll_blockEnc_blockDec h, execAll_blockDec_blockEnc h⟩

/-! ### The single-step commands (R182-R188) -/

/-- The round operation of a single-step command under the round keys `rk`; the other commands have none. -/
def roundOperation (rk : Vector Byte 240) : Instr → StateMatrix → StateMatrix
  | .subBytes, m => subBytes m
  | .invSubBytes, m => invSubBytes m
  | .shiftRows, m => shiftRows m
  | .invShiftRows, m => invShiftRows m
  | .mixColumns, m => mixColumns m
  | .invMixColumns, m => invMixColumns m
  | .addRoundKey rnd, m => addRoundKey rk m rnd
  | _, m => m

/-- The round operations of single-step commands, one after another. -/
def roundOperations (rk : Vector Byte 240) (is : List Instr) (m : StateMatrix) : StateMatrix :=
  is.foldl (fun m i => roundOperation rk i m) m

/-- The single-step commands that end without error in `s`: ADD_ROUND_KEY needs a key, and RND at most NR (R188). -/
def State.CanStep (s : State) : Instr → Prop
  | .subBytes | .invSubBytes | .shiftRows | .invShiftRows | .mixColumns | .invMixColumns => True
  | .addRoundKey rnd => s.keyValid = true ∧ rnd ≤ s.nr.toNat
  | _ => False

theorem exec_addRoundKey_of_round {s : State} {rnd : Nat} (hkey : s.keyValid = true) (hrnd : rnd ≤ s.rounds) :
    exec (.addRoundKey rnd) s = .next (s.finishedWith (blockOf (addRoundKey s.rk (stateOf s.data) rnd))) :=
  ((requireKey_of_key hkey _).trans (if_neg (Nat.not_lt.mpr hrnd))).trans (stepData_eq _ s)

/-- Such a command applies its round operation to DATA. -/
theorem exec_of_canStep {s : State} {i : Instr} (h : s.CanStep i) :
    exec i s = .next (s.finishedWith (blockOf (roundOperation s.rk i (stateOf s.data)))) := by
  cases i with
  | subBytes | invSubBytes | shiftRows | invShiftRows | mixColumns | invMixColumns => exact stepData_eq _ s
  | addRoundKey rnd =>
    obtain ⟨hkey, hrnd⟩ := h
    exact exec_addRoundKey_of_round hkey hrnd
  | _ => exact h.elim

/-- A single step leaves what the next one needs. -/
theorem State.CanStep.finishedWith {s : State} {i : Instr} (h : s.CanStep i) (d : Block) :
    (s.finishedWith d).CanStep i := h

theorem execAll_finishedWith {is : List Instr} {s : State} (h : ∀ i ∈ is, s.CanStep i) (m : StateMatrix) :
    execAll is (s.finishedWith (blockOf m)) = .next (s.finishedWith (blockOf (roundOperations s.rk is m))) := by
  induction is generalizing m with
  | nil => rfl
  | cons i is ih =>
    obtain ⟨hi, his⟩ := List.forall_mem_cons.mp h
    rw [execAll_cons (exec_of_canStep (hi.finishedWith _)), State.finishedWith_finishedWith, State.finishedWith_rk,
      State.finishedWith_data, stateOf_blockOf, ih his]
    rfl

/-- Single steps one after another compose their round operations. -/
theorem execAll_of_canStep {i : Instr} {is : List Instr} {s : State} (h : ∀ j ∈ i :: is, s.CanStep j) :
    execAll (i :: is) s = .next (s.finishedWith (blockOf (roundOperations s.rk (i :: is) (stateOf s.data)))) := by
  obtain ⟨hi, his⟩ := List.forall_mem_cons.mp h
  rw [execAll_cons (exec_of_canStep hi), execAll_finishedWith his]
  rfl

/-- Single steps whose round operations give every matrix back only complete. -/
theorem execAll_eq_complete {i : Instr} {is : List Instr} {s : State} (h : ∀ j ∈ i :: is, s.CanStep j)
    (hid : ∀ m, roundOperations s.rk (i :: is) m = m) : execAll (i :: is) s = .next (s.complete .noError) := by
  rw [execAll_of_canStep h, hid, blockOf_stateOf]
  rfl

/-! ### Each single-step command on the bytes of DATA -/

theorem blockOf_subBytes_stateOf (d : Block) : blockOf (subBytes (stateOf d)) = d.map sbox :=
  block_ext fun r c => by rw [getElem_blockOf_entry, subBytes, getElem_buildMatrix, getElem_stateOf, Vector.getElem_map]

theorem blockOf_invSubBytes_stateOf (d : Block) : blockOf (invSubBytes (stateOf d)) = d.map invSbox :=
  block_ext fun r c => by
    rw [getElem_blockOf_entry, invSubBytes, getElem_buildMatrix, getElem_stateOf, Vector.getElem_map]

theorem exec_subBytes (s : State) : exec .subBytes s = .next (s.finishedWith (s.data.map sbox)) := by
  rw [← blockOf_subBytes_stateOf]
  exact stepData_eq subBytes s

theorem exec_invSubBytes (s : State) : exec .invSubBytes s = .next (s.finishedWith (s.data.map invSbox)) := by
  rw [← blockOf_invSubBytes_stateOf]
  exact stepData_eq invSubBytes s

theorem map_invSbox_map_sbox (d : Block) : (d.map sbox).map invSbox = d := by
  ext j hj : 1
  rw [Vector.getElem_map, Vector.getElem_map, invSbox_sbox]

/-- Settles O12: the commands' equations, and what the tables hold. -/
theorem subBytesCommandsLookUpEveryByte : Obligations.SubBytesCommandsLookUpEveryByte :=
  ⟨rfl, rfl, fun s => ⟨exec_subBytes s, exec_invSubBytes s⟩, map_invSbox_map_sbox, Vector.map_replicate,
    by decide +kernel⟩

/-- The list `p` of R164: the byte that SHIFT_ROWS moves to each place. -/
def shiftRowsSource : Vector (Fin 16) 16 := #v[0, 5, 10, 15, 4, 9, 14, 3, 8, 13, 2, 7, 12, 1, 6, 11]

/-- The list `q` of R165: the byte that INV_SHIFT_ROWS moves to each place. -/
def invShiftRowsSource : Vector (Fin 16) 16 := #v[0, 13, 10, 7, 4, 1, 14, 11, 8, 5, 2, 15, 12, 9, 6, 3]

/-- The lists take entry `(r, c)` from column `c + r`, or `c - r`, of row `r`. -/
theorem shiftRowsSource_entry : ∀ r c : Fin 4, shiftRowsSource[r.val + 4 * c.val].val = r.val + 4 * (c + r).val ∧
    invShiftRowsSource[r.val + 4 * c.val].val = r.val + 4 * (c - r).val := by decide

theorem blockOf_shiftRows_stateOf (d : Block) :
    blockOf (shiftRows (stateOf d)) = shiftRowsSource.map (fun j => d[j]) :=
  block_ext fun r c => by
    rw [getElem_blockOf_entry, shiftRows, getElem_buildMatrix, getElem_stateOf]
    simp only [Vector.getElem_map, Fin.getElem_fin, shiftRowsSource_entry]

theorem blockOf_invShiftRows_stateOf (d : Block) :
    blockOf (invShiftRows (stateOf d)) = invShiftRowsSource.map (fun j => d[j]) :=
  block_ext fun r c => by
    rw [getElem_blockOf_entry, invShiftRows, getElem_buildMatrix, getElem_stateOf]
    simp only [Vector.getElem_map, Fin.getElem_fin, shiftRowsSource_entry]

theorem exec_shiftRows (s : State) :
    exec .shiftRows s = .next (s.finishedWith (shiftRowsSource.map (fun j => s.data[j]))) := by
  rw [← blockOf_shiftRows_stateOf]
  exact stepData_eq shiftRows s

theorem exec_invShiftRows (s : State) :
    exec .invShiftRows s = .next (s.finishedWith (invShiftRowsSource.map (fun j => s.data[j]))) := by
  rw [← blockOf_invShiftRows_stateOf]
  exact stepData_eq invShiftRows s

/-- Settles O13: the commands' equations, and their round operations in a row. -/
theorem shiftRowsCommandsPermuteData : Obligations.ShiftRowsCommandsPermuteData :=
  ⟨rfl, rfl, fun s => ⟨exec_shiftRows s, exec_invShiftRows s,
    execAll_eq_complete (by simp [State.CanStep]) invShiftRows_shiftRows,
    execAll_eq_complete (by simp [State.CanStep]) shiftRows_four_times⟩, by decide⟩

/-- Entry `(k, c)` is byte `k` of column `c`. -/
theorem getElem_stateOf_column (d : Block) {k c : Nat} (hk : k < 4) (hc : c < 4) :
    (stateOf d)[k][c] = d[4 * c + k] := by
  have hentry := getElem_stateOf d ⟨k, hk⟩ ⟨c, hc⟩
  simpa only [Fin.getElem_fin, Nat.add_comm] using hentry

/-- Byte `r` of column `c` is the product of row `r` of the matrix and the column. -/
theorem getElem_blockOf_mulColumns_stateOf (m : StateMatrix) (d : Block) (r c : Fin 4) :
    (blockOf (mulColumns m (stateOf d)))[4 * c.val + r.val] =
      gmul m[r][0] d[4 * c.val] ^^^ gmul m[r][1] d[4 * c.val + 1] ^^^ gmul m[r][2] d[4 * c.val + 2] ^^^
        gmul m[r][3] d[4 * c.val + 3] := by
  rw [← getElem_stateOf_column _ r.isLt c.isLt, stateOf_blockOf, getElem_mulColumns]
  simp only [getElem_stateOf_column, Nat.add_zero, Fin.getElem_fin]

theorem exec_mixColumns (s : State) :
    exec .mixColumns s = .next (s.finishedWith (blockOf (mixColumns (stateOf s.data)))) := stepData_eq _ s

theorem exec_invMixColumns (s : State) :
    exec .invMixColumns s = .next (s.finishedWith (blockOf (invMixColumns (stateOf s.data)))) := stepData_eq _ s

/-- A row that adds up to 1 keeps a column of four equal bytes. -/
theorem gmul_row_of_sum_one {a b c d : Byte} (h : a ^^^ b ^^^ c ^^^ d = 1#8) (v : Byte) :
    gmul a v ^^^ gmul b v ^^^ gmul c v ^^^ gmul d v = v := by
  rw [← gmul_xor_left, ← gmul_xor_left, ← gmul_xor_left, h, gmul_one_left]

/-- Settles O14: each byte is one row of the matrix times its column, and each row of the matrices adds up to 1. -/
theorem mixColumnsCommandsMultiplyColumns : Obligations.MixColumnsCommandsMultiplyColumns := by
  refine ⟨rfl, rfl, fun s => ⟨_, _, exec_mixColumns s, exec_invMixColumns s, fun c => ?_⟩, fun s =>
    execAll_eq_complete (by simp [State.CanStep]) invMixColumns_mixColumns, fun v =>
    ⟨gmul_row_of_sum_one (by decide) v, gmul_row_of_sum_one (by decide) v⟩⟩
  have hmix := fun r => getElem_blockOf_mulColumns_stateOf mixMatrix s.data r c
  have hinv := fun r => getElem_blockOf_mulColumns_stateOf invMixMatrix s.data r c
  exact ⟨hmix 0, hmix 1, hmix 2, hmix 3, hinv 0, hinv 1, hinv 2, hinv 3⟩

theorem blockOf_addRoundKey_stateOf (rk : Vector Byte 240) (d : Block) (rnd : Nat) :
    blockOf (addRoundKey rk (stateOf d) rnd) = Vector.ofFn fun j : Fin 16 => d[j] ^^^ rk.getD (16 * rnd + j.val) 0 :=
  block_ext fun r c => by
    have hbyte : 16 * rnd + 4 * c.val + r.val = 16 * rnd + (r.val + 4 * c.val) := by omega
    rw [getElem_blockOf_entry, addRoundKey, getElem_buildMatrix, getElem_stateOf, Vector.getElem_ofFn, hbyte]
    rfl

theorem exec_addRoundKey_of_round_above {s : State} {rnd : Nat} (hkey : s.keyValid = true) (hrnd : s.rounds < rnd) :
    exec (.addRoundKey rnd) s = .next (s.complete .invalidRound) :=
  (requireKey_of_key hkey _).trans (if_pos hrnd)

/-- Settles O15: one equation for each outcome. -/
theorem addRoundKeyXorsTheRoundKey : Obligations.AddRoundKeyXorsTheRoundKey := by
  refine ⟨by decide, fun s rnd => ⟨fun hkey hrnd => ⟨?_, ?_⟩, fun h => requireKey_of_noKey h _,
    exec_addRoundKey_of_round_above⟩⟩
  · rw [exec_addRoundKey_of_round hkey hrnd, blockOf_addRoundKey_stateOf]
    rfl
  · exact execAll_eq_complete (by simp [State.CanStep, hkey, hrnd]) (addRoundKey_addRoundKey s.rk · rnd)

/-! ### The stepwise ciphers (R169, R170, R188) -/

/-- The round operations in the order of the forward cipher are the forward cipher. -/
theorem blockOf_roundOperations_stepwiseEncrypt (rk : Vector Byte 240) (nr : Nat) (b : Block) :
    blockOf (roundOperations rk (stepwiseEncrypt nr) (stateOf b)) = encrypt rk nr b := by
  rw [stepwiseEncrypt, roundOperations, List.foldl_append, List.foldl_append, List.foldl_flatMap]
  rfl

theorem blockOf_roundOperations_stepwiseDecrypt (rk : Vector Byte 240) (nr : Nat) (b : Block) :
    blockOf (roundOperations rk (stepwiseDecrypt nr) (stateOf b)) = decrypt rk nr b := by
  rw [stepwiseDecrypt, roundOperations, List.foldl_append, List.foldl_append, List.foldl_flatMap]
  rfl

theorem le_of_mem_innerRounds {nr r : Nat} (h : r ∈ List.range' 1 (nr - 1)) : r ≤ nr := by
  rw [List.mem_range'_1] at h
  omega

/-- With a key every step of the stepwise ciphers ends without error: their round indices are at most NR. -/
theorem canStep_of_mem_stepwiseEncrypt {s : State} (h : s.keyValid = true) :
    ∀ i ∈ stepwiseEncrypt s.nr.toNat, s.CanStep i := by
  simp only [stepwiseEncrypt, List.forall_mem_append, List.forall_mem_flatMap, List.forall_mem_cons,
    List.not_mem_nil, false_imp_iff, implies_true, and_true]
  exact ⟨⟨⟨h, Nat.zero_le _⟩, fun r hr => ⟨trivial, trivial, trivial, h, le_of_mem_innerRounds hr⟩⟩,
    trivial, trivial, h, le_rfl⟩

theorem canStep_of_mem_stepwiseDecrypt {s : State} (h : s.keyValid = true) :
    ∀ i ∈ stepwiseDecrypt s.nr.toNat, s.CanStep i := by
  simp only [stepwiseDecrypt, List.forall_mem_append, List.forall_mem_flatMap, List.forall_mem_cons,
    List.mem_reverse, List.not_mem_nil, false_imp_iff, implies_true, and_true]
  exact ⟨⟨⟨h, le_rfl⟩, fun r hr => ⟨trivial, trivial, ⟨h, le_of_mem_innerRounds hr⟩, trivial⟩⟩,
    trivial, trivial, h, Nat.zero_le _⟩

/-- Settles O57: the stepwise commands compose the round operations of the ciphers. -/
theorem stepwiseRoundsEqualBlockCommands : Obligations.StepwiseRoundsEqualBlockCommands := by
  intro s h
  constructor
  · rw [exec_blockEnc_of_key h, ← blockOf_roundOperations_stepwiseEncrypt]
    exact execAll_of_canStep (canStep_of_mem_stepwiseEncrypt h)
  · rw [exec_blockDec_of_key h, ← blockOf_roundOperations_stepwiseDecrypt]
    exact execAll_of_canStep (canStep_of_mem_stepwiseDecrypt h)

end Sys2Proof.Machine
end

section
/-! PROOF. Padding: when it is valid, that unpadding gives a padded message back, and the commands PAD and UNPAD, one
equation for each outcome. -/

namespace Sys2Proof.Machine

/-! ### Valid padding (R201) -/

/-- The check reads its count off the last byte and compares the bytes counted with that one. -/
theorem unpadCheck_of_getLast? {X : List Byte} {last : Byte} {p : Nat} (h : X.getLast? = some last) :
    unpadCheck X = some p ↔
      1 ≤ p ∧ p ≤ 16 ∧ p ≤ X.length ∧ last.toNat = p ∧ ∀ b ∈ X.drop (X.length - p), b = last := by
  simp only [unpadCheck, h, Option.ite_none_left_eq_some, List.any_eq_true, decide_eq_true_eq, not_exists, not_and,
    not_not, Option.some.injEq]
  constructor
  · rintro ⟨hrange, hlen, hbytes, rfl⟩
    exact ⟨by omega, by omega, by omega, rfl, hbytes⟩
  · rintro ⟨hpos, hmax, hlen, rfl, hbytes⟩
    exact ⟨by omega, by omega, hbytes, rfl⟩

/-- The last byte is one of those a positive count covers. -/
theorem getLast?_mem_drop {X : List Byte} {last : Byte} {p : Nat} (h : X.getLast? = some last) (hpos : 1 ≤ p)
    (hlen : p ≤ X.length) : last ∈ X.drop (X.length - p) :=
  List.mem_of_getLast? (by rw [List.getLast?_drop, if_neg (by omega), h])

theorem unpadCheck_eq_some_iff {X : List Byte} {p : Nat} : unpadCheck X = some p ↔
    1 ≤ p ∧ p ≤ 16 ∧ p ≤ X.length ∧ ∀ b ∈ X.drop (X.length - p), b.toNat = p := by
  cases h : X.getLast? with
  | none =>
    obtain rfl := List.getLast?_eq_none_iff.mp h
    simp only [unpadCheck, h, List.length_nil, reduceCtorEq, false_iff]
    omega
  | some last =>
    rw [unpadCheck_of_getLast? h]
    constructor
    · rintro ⟨hpos, hmax, hlen, hlast, hbytes⟩
      exact ⟨hpos, hmax, hlen, fun b hb => hbytes b hb ▸ hlast⟩
    · rintro ⟨hpos, hmax, hlen, hbytes⟩
      have hlast : last.toNat = p := hbytes last (getLast?_mem_drop h hpos hlen)
      exact ⟨hpos, hmax, hlen, hlast, fun b hb => BitVec.eq_of_toNat_eq ((hbytes b hb).trans hlast.symm)⟩

/-- A count of 0 is out of range. -/
theorem unpadCheck_of_last_zero {X : List Byte} (h : X.getLast? = some 0x00) : unpadCheck X = none :=
  Option.eq_none_iff_forall_ne_some.mpr fun p hp => by
    obtain ⟨hpos, -, -, hlast, -⟩ := (unpadCheck_of_getLast? h).mp hp
    exact absurd (hpos.trans_eq hlast.symm) (by decide)

/-- A count of 1 covers the last byte alone. -/
theorem unpadCheck_of_last_one {X : List Byte} (h : X.getLast? = some 0x01) : unpadCheck X = some 1 := by
  obtain ⟨front, rfl⟩ := List.getLast?_eq_some_iff.mp h
  exact (unpadCheck_of_getLast? h).mpr ⟨le_rfl, by decide, by simp, rfl, by simp⟩

/-! ### Unpadding a padded message (R200, R205) -/

theorem padCount_range (n : Nat) : 1 ≤ padCount n ∧ padCount n ≤ 16 := by
  unfold padCount
  omega

/-- Without the count's bytes a padded message is as long as the message. -/
theorem padBytes_length_sub_padCount (d : List Byte) : (padBytes d).length - padCount d.length = d.length := by
  rw [padBytes_length, ← padCount, Nat.add_sub_cancel]

theorem unpadCheck_padBytes (d : List Byte) : unpadCheck (padBytes d) = some (padCount d.length) := by
  obtain ⟨hpos, hmax⟩ := padCount_range d.length
  refine unpadCheck_eq_some_iff.mpr ⟨hpos, hmax, by simp [padBytes], fun b hb => ?_⟩
  rw [padBytes_length_sub_padCount, padBytes, List.drop_left] at hb
  rw [List.eq_of_mem_replicate hb, BitVec.toNat_ofNat]
  exact Nat.mod_eq_of_lt (by omega)

theorem unpadBytes_padBytes (d : List Byte) : unpadBytes (padBytes d) = some d := by
  rw [unpadBytes, unpadCheck_padBytes, Option.map_some, padBytes_length_sub_padCount, padBytes, List.take_left]

/-- Settles O58: what the check says of a sequence by its last byte, and of a message with its padding behind it. -/
theorem unpaddingInvertsPadding : Obligations.UnpaddingInvertsPadding := by
  refine ⟨fun _ _ => unpadCheck_eq_some_iff, fun d => ⟨unpadCheck_padBytes d, unpadBytes_padBytes d, ?_⟩,
    fun _ => unpadCheck_of_last_zero, fun _ => unpadCheck_of_last_one⟩
  rw [padBytes_length]
  omega

/-! ### A result written to OUT (R203, R204) -/

/-- The length of a result that fits in OUT_LEN is what OUT_LEN holds, and OUT holds the result from byte 0. -/
theorem wroteResult_withResult (s : State) (bs : List Byte) {len : Nat} (e : ErrorCode)
    (hlen : len < 2 ^ 32) : WroteResult s ((s.withResult bs len).complete e) bs len e :=
  have hout (a : Nat) : ((s.withResult bs len).complete e).outByte a = if a < bs.length then bs.getD a 0 else
    s.outByte a := State.outByte_withResult s bs len a
  ⟨rfl, Nat.mod_eq_of_lt hlen, fun a ha => (hout a).trans (if_pos ha), fun a ha => (hout a).trans (if_neg ha.not_gt)⟩

/-! ### The outcomes of PAD and UNPAD (R203, R204) -/

section
variable {s : State}

theorem exec_pad_of_fits (h : s.messageLength ≤ s.capacity - 1) : exec .pad s =
    .next ((s.withResult (padBytes s.message) (padBytes s.message).length).complete .noError) :=
  if_neg h.not_gt

theorem exec_pad_of_overflow (h : s.capacity - 1 < s.messageLength) :
    exec .pad s = .next (s.noResult.complete .lengthOverflow) :=
  if_pos h

theorem exec_unpad_of_valid {p : Nat} (h : s.messageLength ≤ s.capacity) (hp : unpadCheck s.message = some p) :
    exec .unpad s = .next ((s.withResult s.message (s.messageLength - p)).complete .noError) :=
  (if_neg h.not_gt).trans (by rw [hp]; rfl)

theorem exec_unpad_of_invalid (h : s.messageLength ≤ s.capacity) (hp : unpadCheck s.message = none) :
    exec .unpad s = .next (s.noResult.complete .paddingValidation) :=
  (if_neg h.not_gt).trans (by rw [hp]; rfl)

theorem exec_unpad_of_overflow (h : s.capacity < s.messageLength) :
    exec .unpad s = .next (s.noResult.complete .lengthOverflow) :=
  if_pos h

end

/-- Settles O16: one equation for each outcome; a padded message that fits in OUT has a length OUT_LEN can hold. -/
theorem padWritesThePaddedMessage : Obligations.PadWritesThePaddedMessage := by
  refine ⟨by decide, fun s ⟨hmin, hmax⟩ => ⟨fun hfits => ⟨_, exec_pad_of_fits hfits, ?_⟩, exec_pad_of_overflow⟩⟩
  have hlen : (padBytes s.message).length ≤ s.capacity := by
    rw [padBytes_length, State.message_length]
    exact padded_fits (Nat.lt_of_lt_of_le (by decide) hmin) hfits.not_gt
  have hword : (padBytes s.message).length < 2 ^ 32 := by
    simp only [Config.maxBlocksLimit, State.capacity] at hmax hlen
    omega
  simpa [padBytes, padCount] using wroteResult_withResult s (padBytes s.message) .noError hword

/-- Settles O17: one equation for each outcome. -/
theorem unpadStripsValidPadding : Obligations.UnpadStripsValidPadding :=
  ⟨by decide, fun s _ => ⟨fun p hfits hp => ⟨_, exec_unpad_of_valid hfits hp,
    wroteResult_withResult s s.message .noError ((Nat.sub_le ..).trans_lt s.inLen.isLt)⟩,
    exec_unpad_of_invalid, exec_unpad_of_overflow⟩⟩

end Sys2Proof.Machine
end

section
/-! PROOF. CBC: XOR of blocks, the blocks of a byte sequence, and the two chaining loops block by block. -/

namespace Sys2Proof.Machine

/-! ### XOR of blocks (R11) -/

@[simp] theorem getElem_xorBlock (x y : Block) {k : Nat} (hk : k < 16) : (xorBlock x y)[k] = x[k] ^^^ y[k] := by
  simp [xorBlock]

theorem xorBlock_assoc (x y z : Block) : xorBlock (xorBlock x y) z = xorBlock x (xorBlock y z) := by
  ext k hk : 1
  simp [BitVec.xor_assoc]

@[simp] theorem xorBlock_self (x : Block) : xorBlock x x = Vector.replicate 16 0 := by
  ext k hk : 1
  simp

@[simp] theorem xorBlock_zero (x : Block) : xorBlock x (Vector.replicate 16 0) = x := by
  ext k hk : 1
  simp

theorem zero_xorBlock (x : Block) : xorBlock (Vector.replicate 16 0) x = x := by
  ext k hk : 1
  simp

/-- XORing the same block twice changes nothing. -/
@[simp] theorem xorBlock_xorBlock (x y : Block) : xorBlock (xorBlock x y) y = x := by
  rw [xorBlock_assoc, xorBlock_self, xorBlock_zero]

theorem xorBlock_right_injective (y : Block) : Function.Injective fun x => xorBlock x y :=
  Function.LeftInverse.injective (g := fun x => xorBlock x y) fun x => xorBlock_xorBlock x y

theorem xorBlock_eq_self_iff {x mask : Block} : xorBlock x mask = x ↔ mask = Vector.replicate 16 0 := by
  constructor
  · intro h
    have hx : xorBlock (xorBlock x x) mask = xorBlock x x := by rw [xorBlock_assoc, h]
    rwa [xorBlock_self, zero_xorBlock] at hx
  · rintro rfl
    exact xorBlock_zero x

/-! ### The blocks of a byte sequence (R68) -/

@[simp] theorem getElem_blockAt (bs : List Byte) (j : Nat) {k : Nat} (hk : k < 16) :
    (blockAt bs j)[k] = bs.getD (16 * j + k) 0 := by
  simp [blockAt]

@[simp] theorem getElem_blocksOf (bs : List Byte) {j : Nat} (hj : j < (blocksOf bs).length) :
    (blocksOf bs)[j] = blockAt bs j := by
  simp [blocksOf]

/-- Sequences of whole blocks are equal when their blocks are. -/
theorem eq_of_blockAt {bs bs' : List Byte} (hlen : bs'.length = bs.length) (hwhole : bs.length % 16 = 0)
    (h : ∀ j < bs.length / 16, blockAt bs' j = blockAt bs j) : bs' = bs := by
  refine List.ext_getElem hlen fun a ha' ha => ?_
  have hbyte : (blockAt bs' (a / 16))[a % 16] = (blockAt bs (a / 16))[a % 16] := by rw [h _ (by omega)]
  simpa [Nat.div_add_mod, ha, ha'] using hbyte

/-- The chaining value in front of block `j` of a ciphertext: the block before, or the first chaining value for block 0
(R220, R221). -/
def chainBefore (chain : Block) (c : List Byte) : Nat → Block
  | 0 => chain
  | j + 1 => blockAt c j

/-- A block put in front of a sequence is its block 0, and the blocks behind it move up by one. -/
theorem blockAt_toList_append (b : Block) (bs : List Byte) (j : Nat) :
    blockAt (b.toList ++ bs) j = chainBefore b bs j := by
  ext k hk : 1
  cases j with
  | zero =>
    rw [getElem_blockAt, List.getD_append _ _ _ _ (by simpa using hk), chainBefore]
    simp [hk]
  | succ j =>
    rw [getElem_blockAt, List.getD_append_right _ _ _ _ (by simp; omega), chainBefore, getElem_blockAt]
    rw [Vector.length_toList, Nat.mul_succ, Nat.add_right_comm, Nat.add_sub_cancel]

/-- The chaining value in front of a block, byte by byte. -/
theorem getElem_chainBefore (chain : Block) (c : List Byte) (j : Nat) {k : Nat} (hk : k < 16) :
    (chainBefore chain c j)[k] = if j = 0 then chain[k] else c.getD (16 * (j - 1) + k) 0 := by
  cases j <;> simp [chainBefore]

/-! ### The chaining loops, block by block (R220, R221) -/

section
variable (rk : Vector Byte 240) (nr : Nat)

theorem blockAt_cbcEncryptFrom (chain : Block) (ps : List Block) {j : Nat} (hj : j < ps.length) :
    blockAt (cbcEncryptFrom rk nr chain ps) j =
      encrypt rk nr (xorBlock ps[j] (chainBefore chain (cbcEncryptFrom rk nr chain ps) j)) := by
  induction ps generalizing chain j with
  | nil => simp at hj
  | cons p ps ih =>
    rw [cbcEncryptFrom, blockAt_toList_append]
    cases j with
    | zero => rfl
    | succ j =>
      rw [chainBefore, ih _ (Nat.lt_of_succ_lt_succ hj), List.getElem_cons_succ, chainBefore, blockAt_toList_append]

theorem blockAt_cbcDecryptFrom (chain : Block) (cs : List Block) {j : Nat} (hj : j < cs.length) :
    blockAt (cbcDecryptFrom rk nr chain cs) j =
      xorBlock (decrypt rk nr cs[j]) ((chain :: cs)[j]'(by simp; omega)) := by
  induction cs generalizing chain j with
  | nil => simp at hj
  | cons c cs ih =>
    rw [cbcDecryptFrom, blockAt_toList_append]
    cases j with
    | zero => rfl
    | succ j => rw [chainBefore, ih _ (Nat.lt_of_succ_lt_succ hj)]; rfl

variable (iv : Block)

/-- Block `j` of a ciphertext (R220). -/
theorem blockAt_cbcEncrypt (m : List Byte) {j : Nat} (hj : j < m.length / 16 + 1) :
    blockAt (cbcEncrypt rk nr iv m) j =
      encrypt rk nr (xorBlock (blockAt (padBytes m) j) (chainBefore iv (cbcEncrypt rk nr iv m) j)) := by
  have hblocks : j < (blocksOf (padBytes m)).length := by
    rw [blocksOf_length, padBytes_length]
    omega
  rw [cbcEncrypt, blockAt_cbcEncryptFrom rk nr iv _ hblocks, getElem_blocksOf]

/-- Block `j` of a raw decryption (R221). -/
theorem blockAt_cbcDecryptRaw (c : List Byte) {j : Nat} (hj : j < c.length / 16) :
    blockAt (cbcDecryptRaw rk nr iv c) j = xorBlock (decrypt rk nr (blockAt c j)) (chainBefore iv c j) := by
  rw [cbcDecryptRaw, blockAt_cbcDecryptFrom rk nr iv _ (by rwa [blocksOf_length]), getElem_blocksOf]
  cases j <;> simp [chainBefore]

/-- A ciphertext is one block longer than the whole blocks of its message (R220). -/
theorem cbcEncrypt_length_blocks (m : List Byte) : (cbcEncrypt rk nr iv m).length = 16 * (m.length / 16 + 1) := by
  rw [cbcEncrypt_length]
  omega

/-- The raw decryption of a ciphertext is the padded message: block by block the cipher and the chaining value undo
themselves (R224). -/
theorem cbcDecryptRaw_cbcEncrypt (m : List Byte) : cbcDecryptRaw rk nr iv (cbcEncrypt rk nr iv m) = padBytes m := by
  have hlen := cbcEncrypt_length_blocks rk nr iv m
  have hpad : (padBytes m).length = 16 * (m.length / 16 + 1) := by rw [padBytes_length]; omega
  have hraw := cbcDecryptRaw_length rk nr iv (cbcEncrypt rk nr iv m) (by omega)
  refine eq_of_blockAt (by omega) (by omega) fun j hj => ?_
  rw [blockAt_cbcDecryptRaw _ _ _ _ (by omega), blockAt_cbcEncrypt _ _ _ _ (by omega), decrypt_encrypt,
    xorBlock_xorBlock]

/-- The first block of a ciphertext under the zero IV is the encryption of the first block of the message (R224). -/
theorem blockAt_cbcEncrypt_zeroIv (m : List Byte) (hm : 16 ≤ m.length) :
    blockAt (cbcEncrypt rk nr (Vector.replicate 16 0) m) 0 = encrypt rk nr (blockAt m 0) := by
  have hfirst : blockAt (padBytes m) 0 = blockAt m 0 := by
    ext k hk : 1
    rw [getElem_blockAt, getElem_blockAt, padBytes, List.getD_append _ _ _ _ (by omega)]
  rw [blockAt_cbcEncrypt _ _ _ _ (Nat.succ_pos _), hfirst, chainBefore, xorBlock_zero]

end

/-! ### A change of one ciphertext block (R224) -/

theorem decrypt_injective (rk : Vector Byte 240) (nr : Nat) : Function.Injective (decrypt rk nr) :=
  Function.LeftInverse.injective (g := encrypt rk nr) (encrypt_decrypt rk nr)

/-- Settles O60: block `j` of a raw decryption is made of ciphertext blocks `j` and `j − 1` alone. -/
theorem ciphertextChangesStayLocal : Obligations.CiphertextChangesStayLocal := by
  intro rk nr iv mask c c' i _ hlen hi hmask hc X X'
  have hX {j : Nat} (hj : j < c.length / 16) :
      blockAt X j = xorBlock (decrypt rk nr (blockAt c j)) (chainBefore iv c j) :=
    blockAt_cbcDecryptRaw rk nr iv c hj
  have hX' {j : Nat} (hj : j < c.length / 16) :
      blockAt X' j = xorBlock (decrypt rk nr (blockAt c' j)) (chainBefore iv c' j) :=
    blockAt_cbcDecryptRaw rk nr iv c' (by rwa [hlen])
  have hother {j : Nat} (hj : j < c.length / 16) (hne : j ≠ i) : blockAt c' j = blockAt c j := by
    rw [hc j hj, if_neg hne]
  have hchanged : blockAt c' i = xorBlock (blockAt c i) mask := by rw [hc i hi, if_pos rfl]
  have hchain {j : Nat} (hj : j < c.length / 16) (hne : j ≠ i + 1) : chainBefore iv c' j = chainBefore iv c j := by
    cases j with
    | zero => rfl
    | succ j => exact hother (by omega) (by omega)
  refine ⟨fun h => ?_, fun hnext => ?_, fun j hj hne hne' => ?_⟩
  · rw [hX hi, hX' hi, hchanged, hchain hi (by omega)] at h
    exact hmask (xorBlock_eq_self_iff.mp (decrypt_injective rk nr (xorBlock_right_injective _ h)))
  · rw [hX hnext, hX' hnext, hother hnext (by omega), chainBefore, chainBefore, hchanged, xorBlock_assoc]
  · rw [hX hj, hX' hj, hother hj hne, hchain hj hne']

end Sys2Proof.Machine
end

section
/-! PROOF. The commands CBC_ENC and CBC_DEC, one equation for each outcome, and that the second gives back the message
of the first. -/

namespace Sys2Proof.Machine

section
variable {s : State}

/-! ### The outcomes of CBC_ENC (R222) -/

theorem exec_cbcEnc_of_noKey (hkey : s.keyValid = false) :
    exec .cbcEnc s = .next (s.noResult.complete .keyNotReady) :=
  requireKey_of_noKey hkey _

theorem exec_cbcEnc_of_overflow (hkey : s.keyValid = true) (h : s.capacity - 1 < s.messageLength) :
    exec .cbcEnc s = .next (s.noResult.complete .lengthOverflow) :=
  (requireKey_of_key hkey _).trans (if_pos h)

theorem exec_cbcEnc_of_fits (hkey : s.keyValid = true) (h : s.messageLength ≤ s.capacity - 1) :
    exec .cbcEnc s = .next ((s.withResult (cbcEncrypt s.rk s.rounds s.iv s.message)
      (cbcEncrypt s.rk s.rounds s.iv s.message).length).complete .noError) :=
  (requireKey_of_key hkey _).trans (if_neg h.not_gt)

/-- In a legal build the ciphertext of a message that CBC_ENC takes fits in OUT, and its length in OUT_LEN. -/
theorem cbcEncrypt_message_fits (hs : s.CapacityLegal) (h : s.messageLength ≤ s.capacity - 1) :
    (cbcEncrypt s.rk s.rounds s.iv s.message).length ≤ s.capacity ∧
      (cbcEncrypt s.rk s.rounds s.iv s.message).length < 2 ^ 32 := by
  obtain ⟨hmin, hmax⟩ := hs
  have hfits := padded_fits (Nat.lt_of_lt_of_le (by decide) hmin) h.not_gt
  rw [cbcEncrypt_length, State.message_length]
  simp only [Config.maxBlocksLimit, State.capacity, State.messageLength] at hmax hfits ⊢
  omega

/-! ### The outcomes of CBC_DEC (R223, R263) -/

theorem exec_cbcDec_of_noKey (hkey : s.keyValid = false) :
    exec .cbcDec s = .next (s.noResult.complete .keyNotReady) :=
  requireKey_of_noKey hkey _

theorem exec_cbcDec_of_invalidLength (hkey : s.keyValid = true)
    (h : s.messageLength = 0 ∨ s.messageLength % 16 ≠ 0) :
    exec .cbcDec s = .next (s.noResult.complete .invalidCiphertextLength) :=
  (requireKey_of_key hkey _).trans (if_pos h)

theorem exec_cbcDec_of_overflow (hkey : s.keyValid = true) (hwhole : s.messageLength % 16 = 0)
    (h : s.capacity < s.messageLength) : exec .cbcDec s = .next (s.noResult.complete .lengthOverflow) :=
  (requireKey_of_key hkey _).trans ((if_neg (by omega)).trans (if_pos h))

variable (hkey : s.keyValid = true) (hpos : s.messageLength ≠ 0) (hwhole : s.messageLength % 16 = 0)
  (hfits : s.messageLength ≤ s.capacity)
include hkey hpos hwhole hfits

theorem exec_cbcDec_of_valid {p : Nat} (hp : unpadCheck (cbcDecryptRaw s.rk s.rounds s.iv s.message) = some p) :
    exec .cbcDec s = .next ((s.withResult (cbcDecryptRaw s.rk s.rounds s.iv s.message)
      (s.messageLength - p)).complete .noError) :=
  (requireKey_of_key hkey _).trans <| (if_neg (by omega)).trans <| (if_neg hfits.not_gt).trans <| by
    dsimp only
    rw [hp]
    rfl

theorem exec_cbcDec_of_invalid (hp : unpadCheck (cbcDecryptRaw s.rk s.rounds s.iv s.message) = none) :
    exec .cbcDec s =
      .next ((s.withResult (List.replicate s.messageLength 0) 0).complete .paddingValidation) :=
  (requireKey_of_key hkey _).trans <| (if_neg (by omega)).trans <| (if_neg hfits.not_gt).trans <| by
    dsimp only
    rw [hp]
    rfl

end

/-- Settles O18: the recurrence of R220 byte by byte, and one equation for each outcome. -/
theorem cbcEncWritesTheCiphertext : Obligations.CbcEncWritesTheCiphertext := by
  refine ⟨by decide, fun rk nr iv m => ⟨cbcEncrypt_length_blocks rk nr iv m, fun j k hj => ?_, ?_⟩, fun s hs =>
    ⟨fun hkey hfits => ?_, exec_cbcEnc_of_noKey, exec_cbcEnc_of_overflow⟩⟩
  · have hinput : (Vector.ofFn fun b : Fin 16 => (padBytes m).getD (16 * j + b.val) 0 ^^^
        if j = 0 then iv[b] else (cbcEncrypt rk nr iv m).getD (16 * (j - 1) + b.val) 0) =
        xorBlock (blockAt (padBytes m) j) (chainBefore iv (cbcEncrypt rk nr iv m) j) := by
      ext b hb : 1
      simp [getElem_chainBefore]
    rw [hinput, ← blockAt_cbcEncrypt rk nr iv m hj]
    exact (getElem_blockAt _ j k.isLt).symm
  · rintro rfl hm k
    have hbyte : (blockAt (cbcEncrypt rk nr (Vector.replicate 16 0) m) 0)[k] = (encrypt rk nr (blockAt m 0))[k] := by
      rw [blockAt_cbcEncrypt_zeroIv rk nr m hm]
    simpa [blockAt] using hbyte
  · have hlen : (cbcEncrypt s.rk s.rounds s.iv s.message).length = s.inLen.toNat + (16 - s.inLen.toNat % 16) := by
      rw [cbcEncrypt_length, State.message_length]
    refine ⟨_, exec_cbcEnc_of_fits hkey hfits, hlen, ?_⟩
    rw [← hlen]
    exact wroteResult_withResult s _ .noError (cbcEncrypt_message_fits hs hfits).2

/-- Settles O19: the recurrence of R221 byte by byte, and one equation for each outcome. -/
theorem cbcDecWritesThePlaintext : Obligations.CbcDecWritesThePlaintext := by
  refine ⟨by decide, fun rk nr iv c => ⟨cbcDecryptRaw_length rk nr iv c, fun j k hj => ?_⟩, fun s _ =>
    ⟨fun p hkey hpos hwhole hfits hp => ?_, exec_cbcDec_of_noKey, exec_cbcDec_of_invalidLength,
      exec_cbcDec_of_overflow, fun hkey hpos hwhole hfits hp => ?_⟩⟩
  · have hbyte : (blockAt (cbcDecryptRaw rk nr iv c) j)[k.val] =
        (xorBlock (decrypt rk nr (blockAt c j)) (chainBefore iv c j))[k.val] := by
      rw [blockAt_cbcDecryptRaw rk nr iv c hj]
    rwa [getElem_blockAt, getElem_xorBlock, getElem_chainBefore] at hbyte
  · have hlen := cbcDecryptRaw_length s.rk s.rounds s.iv s.message (by rwa [State.message_length])
    exact ⟨_, exec_cbcDec_of_valid hkey hpos hwhole hfits hp, hlen.trans s.message_length,
      wroteResult_withResult s _ .noError ((Nat.sub_le ..).trans_lt s.inLen.isLt)⟩
  · exact ⟨_, exec_cbcDec_of_invalid hkey hpos hwhole hfits hp, wroteResult_withResult s _ _ (by decide)⟩

/-! ### CBC_DEC after CBC_ENC (R224) -/

/-- The message is the bytes that IN holds, as many as IN_LEN says. -/
theorem State.message_eq_of_inByte {s : State} {bs : List Byte} (hlen : s.inLen.toNat = bs.length)
    (h : ∀ a < bs.length, s.inByte a = bs.getD a 0) : s.message = bs := by
  refine List.ext_getElem (by simp [hlen]) fun a _ ha => ?_
  simp [State.message, h a ha, ha]

/-- Byte `a` of the message is byte `a` of IN, with any padding behind it. -/
theorem State.getD_padBytes_message (s : State) {a : Nat} (ha : a < s.inLen.toNat) :
    (padBytes s.message).getD a 0 = s.inByte a := by
  rw [padBytes, List.getD_append _ _ _ _ (by simpa using ha)]
  simp [State.message, ha]

/-- CBC_DEC of a ciphertext completes with the padded message in OUT, and OUT_LEN without the padding. -/
theorem exec_cbcDec_of_ciphertext {u : State} {m : List Byte} (hkey : u.keyValid = true)
    (hmessage : u.message = cbcEncrypt u.rk u.rounds u.iv m) (hfits : u.messageLength ≤ u.capacity) :
    exec .cbcDec u = .next ((u.withResult (padBytes m) m.length).complete .noError) := by
  have hlen : u.messageLength = m.length + padCount m.length := by
    rw [State.messageLength, ← State.message_length, hmessage, cbcEncrypt_length, padCount]
  have hraw : cbcDecryptRaw u.rk u.rounds u.iv u.message = padBytes m := by rw [hmessage, cbcDecryptRaw_cbcEncrypt]
  have hcount : unpadCheck (cbcDecryptRaw u.rk u.rounds u.iv u.message) = some (padCount m.length) := by
    rw [hraw, unpadCheck_padBytes]
  have hwhole : u.messageLength ≠ 0 ∧ u.messageLength % 16 = 0 := by
    unfold padCount at hlen
    omega
  rw [exec_cbcDec_of_valid hkey hwhole.1 hwhole.2 hfits hcount, hraw, hlen, Nat.add_sub_cancel]

/-- Settles O59: what CBC_ENC wrote to OUT is the message of CBC_DEC, whose raw decryption is the padded message. -/
theorem cbcDecryptionInvertsCbcEncryption : Obligations.CbcDecryptionInvertsCbcEncryption := by
  intro s t u hs hkey hshort henc hukey hrk hnr hiv hblocks hinLen hin
  obtain ⟨hfits, hword⟩ := cbcEncrypt_message_fits hs hshort
  obtain rfl := Host.Outcome.next.inj ((exec_cbcEnc_of_fits hkey hshort).symm.trans henc)
  obtain ⟨-, hoLen, hout, -⟩ := wroteResult_withResult s (cbcEncrypt s.rk s.rounds s.iv s.message) .noError hword
  have hmessage : u.message = cbcEncrypt u.rk u.rounds u.iv s.message := by
    have hcipher : cbcEncrypt u.rk u.rounds u.iv s.message = cbcEncrypt s.rk s.rounds s.iv s.message := by
      simp [State.rounds, hrk, hnr, hiv]
    rw [hcipher]
    exact State.message_eq_of_inByte (by rw [hinLen, hoLen]) fun a ha => by rw [hin a (by rwa [hoLen]), hout a ha]
  have hufits : u.messageLength ≤ u.capacity := by
    rw [State.messageLength, hinLen, hoLen, State.capacity, hblocks]
    exact hfits
  refine ⟨_, exec_cbcDec_of_ciphertext (hukey.trans hkey) hmessage hufits, rfl, by simp, fun a ha => ?_⟩
  have hread := State.outByte_withResult u (padBytes s.message) s.message.length a
  rw [if_pos (by rw [padBytes_length, State.message_length]; omega), State.getD_padBytes_message s ha] at hread
  exact hread

end Sys2Proof.Machine
end

section
/-! PROOF. The command protocol: how a command write is answered, NOP, and that every command completes, within one step
more than the turns fixed. -/

namespace Sys2Proof.Machine

/-! ### Every command completes (R241, R244) -/

/-- Settles O20: the outcome of every command is a completion, which leaves nothing in flight. -/
theorem everyCommandCompletes : Obligations.EveryCommandCompletes := by
  intro i s
  obtain ⟨u, e, h⟩ := completes_exec i s
  exact ⟨_, h, u.complete_pend e⟩

theorem exec_pend {i : Instr} {s t : State} (h : exec i s = .next t) : t.pend = none := by
  obtain ⟨u, hu, hidle⟩ := everyCommandCompletes i s
  cases hu.symm.trans h
  exact hidle

/-! ### Acceptance (R60, R240) and NOP (R242) -/

/-- Settles O27: CMD is admitted in every build, so the write has its effect while idle and is dropped while busy. -/
theorem commandWriteIsAcceptedWhenIdle : Obligations.CommandWriteIsAcceptedWhenIdle := fun s v =>
  ⟨fun hidle => busWrite_idle hidle (admitted_regCmd s) v, fun hbusy => busWrite_dropped (admitted_regCmd s) hbusy v⟩

theorem exec_nop (s : State) : exec .nop s = .next (s.complete .noError) := rfl

/-- Settles O7: acceptance clears ERR and WDROP, and the completion leaves no command in flight, as there was none. -/
theorem nopClearsErrorAndDropOnly : Obligations.NopClearsErrorAndDropOnly := by
  refine ⟨exec_nop, fun s hidle => ?_⟩
  have hwrite : busWrite s regCmd 4 0x00000000 = ⟨false, 0, s.accept 0x00000000⟩ :=
    busWrite_idle hidle (admitted_regCmd s) _
  have hdecode : decode 0x00000000 = .command .nop := by decide
  rw [hwrite, engineStep_of_command (s.accept_pend _) hdecode, exec_nop, State.complete, ← hidle]
  rfl

/-! ### Each step uses up one turn (R246) -/

/-- The Engine's step passes while idle, completes an illegal word, or is the outcome of a command. -/
theorem engineStep_outcomes {s t : State} (h : engineStep s = .next t) :
    (s.pend = none ∧ t = s) ∨ t = s.complete .illegalCommand ∨ ∃ i, exec i s = .next t := by
  cases hpend : s.pend with
  | none => exact .inl ⟨rfl, Host.Outcome.next.inj (h.symm.trans (engineStep_of_idle hpend))⟩
  | some w =>
    cases hdecode : decode w with
    | illegal why =>
      exact .inr (.inl (Host.Outcome.next.inj (h.symm.trans (engineStep_of_illegal hpend hdecode))))
    | command i => exact .inr (.inr ⟨i, (engineStep_of_command hpend hdecode).symm.trans h⟩)

/-- After the Engine's step no command is in flight. -/
theorem engineStep_pend {s t : State} (h : engineStep s = .next t) : t.pend = none := by
  rcases engineStep_outcomes h with ⟨hidle, rfl⟩ | rfl | ⟨i, hi⟩
  · exact hidle
  · exact s.complete_pend .illegalCommand
  · exact exec_pend hi

theorem engineStep_schedule {s t : State} (h : engineStep s = .next t) : t.schedule = s.schedule := by
  rcases engineStep_outcomes h with ⟨-, rfl⟩ | rfl | ⟨i, hi⟩
  · rfl
  · exact s.complete_schedule .illegalCommand
  · obtain ⟨-, -, -, -, -, -, -, -, -, -, -, hschedule, -, -⟩ := commandsLeaveTheirInputs i s t hi
    exact hschedule

theorem hostStep_schedule {s t : State} (h : hostStep s = .next t) : t.schedule = s.schedule := by
  obtain ⟨u, p, r, d, rfl, rfl | rfl | ⟨a, v, g, -, -, rfl⟩⟩ := hostStep_eq_next h
  · rfl
  · rfl
  · exact s.writeTarget_schedule v g

/-- No agent and no reset changes the turns to come. -/
theorem step_schedule {s t : State} (h : step s = .next t) : t.schedule = s.schedule.tail := by
  rcases step_cases s with ⟨-, e⟩ | ⟨-, e⟩ | ⟨-, e⟩
  · exact hostStep_schedule (s := s.spendTurn) (e.symm.trans h)
  · exact engineStep_schedule (s := s.spendTurn) (e.symm.trans h)
  · cases e.symm.trans h
    rfl

/-! ### A command in flight completes (R244) -/

/-- Past the turns fixed, the next step completes the command in flight. -/
theorem step_completes_past_schedule {s : State} {w : Word} (hpend : s.pend = some w) (hturns : s.schedule = []) :
    ∃ t, step s = .next t ∧ t.pend = none := by
  obtain ⟨t, ht⟩ := engineStep_answers s.spendTurn
  have hstep : step s = engineStep s.spendTurn := by
    rw [step, State.nextTurn_eq_engine hpend (.inl hturns), takeTurn]
  exact ⟨t, hstep.trans ht, engineStep_pend ht⟩

/-- A run is its first step and then the rest. -/
theorem run_succ_of_step {s t : State} (h : step s = .next t) (k : Nat) : core.run (k + 1) s = core.run k t := by
  have hstep : core.step s = .next t := h
  simp only [Host.Core.run, hstep]

/-- Settles O42, by induction on the turns fixed: each step uses one up and keeps the program admissible, and past the
last the turn is the Engine's. -/
theorem commandsCompleteAfterFinitelyManySteps : Obligations.CommandsCompleteAfterFinitelyManySteps := by
  intro s hs
  induction hturns : s.schedule generalizing s with
  | nil =>
    cases hpend : s.pend with
    | none => exact ⟨0, s, Nat.zero_le _, rfl, hpend⟩
    | some w =>
      obtain ⟨t, hstep, hidle⟩ := step_completes_past_schedule hpend hturns
      exact ⟨1, t, le_rfl, run_succ_of_step hstep 0, hidle⟩
  | cons turn turns ih =>
    obtain ⟨u, hstep, hu⟩ := admissibleProgramsNeverStop s hs
    have huturns : u.schedule = turns := by rw [step_schedule hstep, hturns, List.tail_cons]
    obtain ⟨k, t, hk, hrun, hidle⟩ := ih u hu huturns
    exact ⟨k + 1, t, Nat.succ_le_succ hk, (run_succ_of_step hstep k).trans hrun, hidle⟩

end Sys2Proof.Machine
end

section
/-! PROOF. The error a command ends with: its code as the chain of its checks in the order of R263, and the state it
leaves; the codes of each row (R261) and what an error changes (R262) are read off the two. -/

namespace Sys2Proof.Machine

/-! ### The code of a command and the state an error leaves (R262, R263) -/

/-- The code command `i` ends with in `s`: its checks in the order of R263. -/
def State.endCode (s : State) : Instr → ErrorCode
  | .keyExpand => if s.keyLen = 16 ∨ s.keyLen = 24 ∨ s.keyLen = 32 then .noError else .invalidKeySize
  | .blockEnc | .blockDec => if s.keyValid = false then .keyNotReady else .noError
  | .addRoundKey rnd =>
    if s.keyValid = false then .keyNotReady else if s.nr.toNat < rnd then .invalidRound else .noError
  | .cbcEnc =>
    if s.keyValid = false then .keyNotReady
    else if 16 * s.maxBlocks - 1 < s.inLen.toNat then .lengthOverflow else .noError
  | .cbcDec =>
    if s.keyValid = false then .keyNotReady
    else if s.inLen.toNat = 0 ∨ s.inLen.toNat % 16 ≠ 0 then .invalidCiphertextLength
    else if 16 * s.maxBlocks < s.inLen.toNat then .lengthOverflow
    else if unpadCheck (cbcDecryptRaw s.rk s.nr.toNat s.iv s.message) = none then .paddingValidation
    else .noError
  | .pad => if 16 * s.maxBlocks - 1 < s.inLen.toNat then .lengthOverflow else .noError
  | .unpad =>
    if 16 * s.maxBlocks < s.inLen.toNat then .lengthOverflow
    else if unpadCheck s.message = none then .paddingValidation else .noError
  | _ => .noError

/-- What command `i` makes of `s` before it raises the code `e` (R262). -/
def State.leftByError (s : State) (e : ErrorCode) : Instr → State
  | .keyExpand => s.dropExpandedKey
  | .pad | .unpad | .cbcEnc => s.noResult
  | .cbcDec =>
    if e = .paddingValidation then s.withResult (List.replicate s.messageLength 0) 0 else s.noResult
  | _ => s

/-- Command `i` completes in `s` with code `e`, and with an error it has changed only what its row of R262 says. -/
def EndsWith (i : Instr) (s : State) (e : ErrorCode) : Prop :=
  ∃ u, exec i s = .next (u.complete e) ∧ (e ≠ .noError → u = s.leftByError e i)

section
variable {i : Instr} {s : State}

/-- Without an error `EndsWith` says nothing more of the state `t`. -/
theorem EndsWith.of_noError {t : State} (h : exec i s = .next (t.complete .noError)) : EndsWith i s .noError :=
  ⟨t, h, fun he => absurd rfl he⟩

/-- A command that leaves its result in DATA ends without an error. -/
theorem EndsWith.of_finishedWith {d : Block} (h : exec i s = .next (s.finishedWith d)) : EndsWith i s .noError :=
  .of_noError (t := s.withData d) h

theorem EndsWith.of_error {e : ErrorCode} (h : exec i s = .next ((s.leftByError e i).complete e)) : EndsWith i s e :=
  ⟨_, h, fun _ => rfl⟩

/-- The key check comes first in every chain that has one (R138, R263). -/
theorem EndsWith.of_keyCheck {e : ErrorCode}
    (hno : s.keyValid = false → exec i s = .next ((s.leftByError .keyNotReady i).complete .keyNotReady))
    (hrun : s.keyValid = true → EndsWith i s e) :
    EndsWith i s (if s.keyValid = false then .keyNotReady else e) := by
  split
  next hkey => exact .of_error (hno hkey)
  next hkey => exact hrun (Bool.eq_true_of_not_eq_false hkey)

end

/-! ### Each command ends with its code -/

section
variable (s : State)

/-- KEYLEN has a round count exactly when it holds one of the three key lengths (R130). -/
theorem endsWith_keyExpand : EndsWith .keyExpand s (s.endCode .keyExpand) := by
  simp only [State.endCode]
  split
  next hlen =>
    have hrounds : ∃ nr, roundsForKey s.keyLen.toNat = some nr := by
      rcases hlen with h | h | h <;> exact ⟨_, by rw [h]; rfl⟩
    obtain ⟨nr, hnr⟩ := hrounds
    exact .of_noError (exec_keyExpand_of_rounds hnr)
  next hlen =>
    obtain ⟨h16, h24, h32⟩ : s.keyLen ≠ 16 ∧ s.keyLen ≠ 24 ∧ s.keyLen ≠ 32 := by simpa using hlen
    exact .of_error (exec_keyExpand_of_illegalLength (roundsForKey_eq_none (fun h => h16 (BitVec.eq_of_toNat_eq h))
      (fun h => h24 (BitVec.eq_of_toNat_eq h)) (fun h => h32 (BitVec.eq_of_toNat_eq h))))

theorem endsWith_blockEnc : EndsWith .blockEnc s (s.endCode .blockEnc) :=
  .of_keyCheck (requireKey_of_noKey · _) fun hkey => .of_finishedWith (exec_blockEnc_of_key hkey)

theorem endsWith_blockDec : EndsWith .blockDec s (s.endCode .blockDec) :=
  .of_keyCheck (requireKey_of_noKey · _) fun hkey => .of_finishedWith (exec_blockDec_of_key hkey)

theorem endsWith_addRoundKey (rnd : Nat) : EndsWith (.addRoundKey rnd) s (s.endCode (.addRoundKey rnd)) := by
  refine .of_keyCheck (requireKey_of_noKey · _) fun hkey => ?_
  split_ifs with hrnd
  · exact .of_error (exec_addRoundKey_of_round_above hkey hrnd)
  · exact .of_finishedWith (exec_addRoundKey_of_round hkey (Nat.le_of_not_lt hrnd))

theorem endsWith_pad : EndsWith .pad s (s.endCode .pad) := by
  simp only [State.endCode]
  split_ifs with hlen
  · exact .of_error (exec_pad_of_overflow hlen)
  · exact .of_noError (exec_pad_of_fits (Nat.le_of_not_lt hlen))

theorem endsWith_unpad : EndsWith .unpad s (s.endCode .unpad) := by
  simp only [State.endCode]
  split_ifs with hlen hcheck
  · exact .of_error (exec_unpad_of_overflow hlen)
  · exact .of_error (exec_unpad_of_invalid (Nat.le_of_not_lt hlen) hcheck)
  · obtain ⟨p, hp⟩ := Option.ne_none_iff_exists'.mp hcheck
    exact .of_noError (exec_unpad_of_valid (Nat.le_of_not_lt hlen) hp)

theorem endsWith_cbcEnc : EndsWith .cbcEnc s (s.endCode .cbcEnc) := by
  refine .of_keyCheck exec_cbcEnc_of_noKey fun hkey => ?_
  split_ifs with hlen
  · exact .of_error (exec_cbcEnc_of_overflow hkey hlen)
  · exact .of_noError (exec_cbcEnc_of_fits hkey (Nat.le_of_not_lt hlen))

theorem endsWith_cbcDec : EndsWith .cbcDec s (s.endCode .cbcDec) := by
  refine .of_keyCheck exec_cbcDec_of_noKey fun hkey => ?_
  split
  next hform => exact .of_error (exec_cbcDec_of_invalidLength hkey hform)
  next hform =>
    obtain ⟨hpos, hwhole⟩ := not_or.mp hform
    rw [not_not] at hwhole
    split_ifs with hlen hcheck
    · exact .of_error (exec_cbcDec_of_overflow hkey hwhole hlen)
    · exact .of_error (exec_cbcDec_of_invalid hkey hpos hwhole (Nat.le_of_not_lt hlen) hcheck)
    · obtain ⟨p, hp⟩ := Option.ne_none_iff_exists'.mp hcheck
      exact .of_noError (exec_cbcDec_of_valid hkey hpos hwhole (Nat.le_of_not_lt hlen) hp)

/-- Every command ends with its code, in every state. -/
theorem exec_endsWith (i : Instr) : EndsWith i s (s.endCode i) := by
  cases i with
  | keyExpand => exact endsWith_keyExpand s
  | blockEnc => exact endsWith_blockEnc s
  | blockDec => exact endsWith_blockDec s
  | addRoundKey rnd => exact endsWith_addRoundKey s rnd
  | cbcEnc => exact endsWith_cbcEnc s
  | cbcDec => exact endsWith_cbcDec s
  | pad => exact endsWith_pad s
  | unpad => exact endsWith_unpad s
  | nop | gfMul | keyClear | subBytes | invSubBytes | shiftRows | invShiftRows | mixColumns | invMixColumns =>
    exact .of_noError rfl

end

section
variable {i : Instr} {s t : State} (h : exec i s = .next t)
include h

/-- ERR after a command is its code. -/
theorem exec_err : t.err = s.endCode i := by
  obtain ⟨u, hu, -⟩ := exec_endsWith s i
  cases hu.symm.trans h
  rfl

/-- After an error the state is what the error leaves, completed with the code. -/
theorem exec_eq_of_error (he : t.err ≠ .noError) : t = (s.leftByError t.err i).complete t.err := by
  obtain ⟨u, hu, hleft⟩ := exec_endsWith s i
  cases hu.symm.trans h
  rw [State.complete_err] at he ⊢
  rw [← hleft he]

end

/-- The Engine's step completes an illegal word with code 4 and no other effect (R243). -/
theorem eq_complete_of_illegal {s t : State} {w : Word} {why : IllegalReason} (hpend : s.pend = some w)
    (hdecode : decode w = .illegal why) (h : engineStep s = .next t) : t = s.complete .illegalCommand :=
  Host.Outcome.next.inj (h.symm.trans (engineStep_of_illegal hpend hdecode))

/-! ### Rules over all commands (R261-R263) -/

/-- A chain of checks ends with one of its codes. -/
theorem endCode_mem_possibleCodes (s : State) (i : Instr) : s.endCode i ∈ possibleCodes i := by
  cases i with
  | nop | gfMul | keyClear | subBytes | invSubBytes | shiftRows | invShiftRows | mixColumns | invMixColumns =>
    exact List.mem_singleton_self _
  | keyExpand | blockEnc | blockDec | addRoundKey | cbcEnc | cbcDec | pad | unpad =>
    simp only [State.endCode]
    split_ifs <;> simp [possibleCodes]

/-- Settles O21: each code in a command's chain of checks is in its row. -/
theorem commandsEndOnlyWithTheirCodes : Obligations.CommandsEndOnlyWithTheirCodes := by
  refine ⟨fun i s t h => ?_, fun s t w why hpend hdecode h => ?_⟩
  · rw [exec_err h]
    exact endCode_mem_possibleCodes s i
  · rw [eq_complete_of_illegal hpend hdecode h, State.complete_err]

/-- Settles O24: each row is what the error leaves; for CBC_DEC it depends on the code. -/
theorem errorsChangeOnlyWhatTheirRowSays : Obligations.ErrorsChangeOnlyWhatTheirRowSays := by
  refine ⟨fun s t w why hpend hdecode h => eq_complete_of_illegal hpend hdecode h, fun i s t h he => ?_⟩
  have hleft := exec_eq_of_error h he
  cases i with
  | keyExpand =>
    have hcode : t.err = .invalidKeySize := by
      have hrow := endCode_mem_possibleCodes s .keyExpand
      rw [← exec_err h] at hrow
      simpa [possibleCodes, he] using hrow
    rwa [hcode] at hleft
  | cbcDec =>
    refine ⟨fun hcode => ?_, fun hcode => ?_⟩
    · rwa [State.leftByError, if_neg hcode] at hleft
    · rw [hcode, State.leftByError, if_pos rfl] at hleft
      rw [hleft]
      exact wroteResult_withResult s _ _ (by decide)
  | _ => exact hleft

/-- Settles O25: the chain of each command is the definition of its code. -/
theorem errorsAreReportedInOrder : Obligations.ErrorsAreReportedInOrder :=
  ⟨fun _ _ => exec_err, fun _ _ _ => exec_err, fun _ _ => exec_err, fun _ _ => exec_err, fun _ _ => exec_err,
    fun _ _ h => h.elim exec_err exec_err, fun _ _ => exec_err, fun _ _ _ hpend ⟨_, hdecode⟩ h =>
      congrArg State.err (eq_complete_of_illegal hpend hdecode h)⟩

end Sys2Proof.Machine
end

section
/-! PROOF. Reset: the state a reset leaves shows STATUS 0 and knows no byte of IN or OUT, and the reset event reaches such
a state from every state. -/

namespace Sys2Proof.Machine

/-- STATUS reads 0 when nothing is in flight, no flag is set and no key is expanded (R24). -/
theorem State.statusWord_eq_zero {s : State} (hpend : s.pend = none) (herr : s.err = .noError) (hnr : s.nr = 0)
    (hwdrop : s.wdrop = false) (hkey : s.keyValid = false) : s.statusWord = 0 := by
  simp only [State.statusWord, State.busy, hpend, herr, hnr, hwdrop, hkey]
  rfl

/-- With nothing of IN and OUT written, their bytes are the free values of the resets so far (R291). -/
theorem State.bytes_of_nothing_written {s : State} (hin : s.inBuf = []) (hout : s.outBuf = []) (a : Nat) :
    s.inByte a = Config.unwritten .input s.resets a ∧ s.outByte a = Config.unwritten .output s.resets a := by
  have hinput : Memory.get (s.buffer .input) a = none := by rw [State.buffer, hin, Memory.get]
  have houtput : Memory.get (s.buffer .output) a = none := by rw [State.buffer, hout, Memory.get]
  exact ⟨State.bufferByte_of_unwritten hinput, State.bufferByte_of_unwritten houtput⟩

/-- When the next turn is the reset's, the step is the reset event (R292). -/
theorem step_of_reset {s : State} {ts : List Turn} (h : s.schedule = .reset :: ts) :
    step s = .next s.spendTurn.resetEvent := by
  have hturn : s.nextTurn = .reset := by rw [State.nextTurn, h]
  rw [step, hturn, takeTurn]

/-- Settles O43: the registers by the definition of the reset state; idle, it accepts a command write, and its buffers
are empty. -/
theorem resetStateHasTheSpecifiedValues : Obligations.ResetStateHasTheSpecifiedValues :=
  ⟨State.statusWord_eq_zero rfl rfl rfl rfl rfl, rfl, rfl, busWrite_idle rfl (admitted_regCmd _),
    rfl, rfl, rfl, rfl, rfl, rfl, rfl, rfl, rfl, rfl, rfl, State.bytes_of_nothing_written rfl rfl⟩

/-- Settles O44: the step is the reset event, after which the registers are those of reset and the buffers empty. -/
theorem resetEventAbandonsTheCommand : Obligations.ResetEventAbandonsTheCommand := fun _ _ h =>
  ⟨_, step_of_reset h, rfl, State.statusWord_eq_zero rfl rfl rfl rfl rfl, rfl, rfl, rfl, rfl, rfl, rfl,
    rfl, rfl, rfl, rfl, rfl, State.bytes_of_nothing_written rfl rfl⟩

end Sys2Proof.Machine
end
